-- ==== Sys2Proof/Word.lean ====
section
/-! DEFINITION. The two widths of the codec's data (00_scope.md R9, R10): bytes and 16-bit unsigned words.
Assembling a word from bytes and cutting it into bytes stand in Machine/Operands.lean. -/

namespace Sys2Proof

/-- A byte of an operand, a result or a one-byte field (`u8` of 00_scope.md R9). -/
abbrev Byte := BitVec 8

/-- A 16-bit unsigned field, and the checksum (`u16` of 00_scope.md R9). -/
abbrev Word := BitVec 16

/-- The four header bytes read as one number, a notation for the opcode map only (30_encoding.md R98). -/
abbrev Header := BitVec 32

end Sys2Proof
end

