-- ==== Sys2Proof/Config.lean ====
section
/-! DEFINITION. The types of what is fixed before reset (10_state.md R32): the checksum parameters
(00_scope.md R6), the payload layouts (R7 and 30_encoding.md R102 to R105) and the one open parameter a
statement may name (R8). Their values stand in Machine/Params.lean. -/

namespace Sys2Proof

/-- The configuration record of the checksum unit, 00_scope.md R6. `poly17` is the generator written with its
x^16 term; `reflected` means that input bytes enter least-significant bit first and the register shifts right. -/
structure CrcCfg where
  poly17    : BitVec 17
  reflected : Bool
  init      : Word
  xorout    : Word
  residue   : Word
deriving DecidableEq, Repr

/-- Length and payload offsets of a basic-info reply, 30_encoding.md R102. -/
structure BasicInfoLayout where
  len     : Nat
  vin     : Nat
  vout    : Nat
  iout    : Nat
  voMax   : Nat
  temp1   : Nat
  temp2   : Nat
  auxV    : Nat
  outMode : Nat
  workSt  : Nat
deriving DecidableEq, Repr

/-- Length, payload offsets and the two byte-string widths of a device-info reply, 30_encoding.md R103. -/
structure DeviceInfoLayout where
  len        : Nat
  devType    : Nat
  devTypeLen : Nat
  hwVer      : Nat
  appVer     : Nat
  bootVer    : Nat
  runArea    : Nat
  sn         : Nat
  snLen      : Nat
  year       : Nat
  month      : Nat
  day        : Nat
deriving DecidableEq, Repr

/-- `LEN_POLICY`, 00_scope.md R7: which payload lengths an extractor takes, by 92_eei_decisions.md D7. -/
inductive LenPolicy where
  /-- the expected length and no other: the spec's decision -/
  | exact
  /-- the expected length or more, the bytes beyond it unused: the reading D7 names and decides against -/
  | atLeast
deriving DecidableEq, Repr

/-- Where a payload field stands and how many bytes it has. -/
structure Field where
  off  : Nat
  size : Nat
deriving DecidableEq, Repr

/-- The width of a field in bits. -/
abbrev Field.bits (f : Field) : Nat := 8 * f.size

/-- Length, payload offsets and field sizes of a system-info reply, 30_encoding.md R104; the sizes are parameters like
the rest (43_payload_decode.md R195). -/
structure SystemInfoLayout where
  len    : Nat
  blkLev : Field
  opp    : Field
  otp    : Field
  volLev : Field
deriving DecidableEq, Repr

/-- Lengths, payload offsets and field sizes of a basic-set reply, 30_encoding.md R105 and R106; the sizes are a
decision of the same kind (92_eei_decisions.md D6). -/
structure BasicSetLayout where
  len    : Nat
  lenAck : Nat
  index  : Field
  state  : Field
  voSet  : Field
  ioSet  : Field
  ovpSet : Field
  ocpSet : Field
deriving DecidableEq, Repr

/-- How far `RXBUF_SIZE` exceeds 6: no value in the spec, so none here (00_scope.md R8, 92_eei_decisions.md D27;
log entry 12). -/
opaque Config.rxbufExtra : Nat

/-- `RXBUF_SIZE`, the largest buffer the host may present to DECODE: OPEN, any value from 6 up (00_scope.md R8).
No rule of the codec reads it; only Safety.lean's host obligations name it. -/
def Config.rxbufSize : Nat := 6 + Config.rxbufExtra

end Sys2Proof
end

