-- ==== Sys2Proof/Machine/Params.lean ====
section
/-! DEFINITION. The values of the codec's constants and parameters: wire constants (00_scope.md R5), the checksum
parameters at their default (R6) and the length policy, payload lengths, offsets and field sizes (R7, 30_encoding.md
R102 to R105). They stand here and not in Config.lean so that a device capture can change them without touching a rule
(92_eei_decisions.md D5, D17; log entries 10 and 11). -/

namespace Sys2Proof.Params

/-- Direction marker host to device. -/
def markH2D : Byte := 0xFB#8
/-- Direction marker device to host. -/
def markD2H : Byte := 0xFA#8
/-- Marker, operation code, reserved byte, length. -/
def hdrLen : Nat := 4
/-- The two checksum bytes. -/
def crcLen : Nat := 2
/-- The length field is one byte. -/
def maxPayload : Nat := 255

def opNone       : Byte := 0x00#8
def opDeviceinfo : Byte := 0x10#8
def opBasicinfo  : Byte := 0x30#8
def opBasicset   : Byte := 0x35#8
def opSysteminfo : Byte := 0x40#8
def opScanout    : Byte := 0x50#8
def opSerialout  : Byte := 0x55#8

/-- The enumerated set of operation codes, 30_encoding.md R92. -/
def enumeratedOps : List Byte :=
  [opNone, opDeviceinfo, opBasicinfo, opBasicset, opSysteminfo, opScanout, opSerialout]

/-- The operation codes with an extractor, 42_frame_parse.md R177. -/
def extractedOps : List Byte := [opDeviceinfo, opBasicinfo, opBasicset, opSysteminfo]

/-- First byte of a basic-set request that pushes settings, 30_encoding.md R107. -/
def modeModify : Byte := 0x20#8
/-- The one byte of a basic-set request that asks for the settings, 30_encoding.md R108. -/
def modeActivate : Byte := 0x80#8
/-- The value an acknowledgement byte must have, 30_encoding.md R106. -/
def ackValue : Byte := 1#8

/-- The checksum parameters at their default, 00_scope.md R6. -/
def crcCfg : CrcCfg :=
  { poly17 := 0x18005#17, reflected := true, init := 0xFFFF#16, xorout := 0x0000#16, residue := 0x0000#16 }

/-- `LEN_POLICY` = exact, 00_scope.md R7 (92_eei_decisions.md D7). -/
def lenPolicy : LenPolicy := .exact

/-- 30_encoding.md R102: nine fields in the order of the source, packed; `LEN_BASICINFO` = 16. -/
def basicInfo : BasicInfoLayout :=
  { len := 16, vin := 0, vout := 2, iout := 4, voMax := 6, temp1 := 8, temp2 := 10, auxV := 12,
    outMode := 14, workSt := 15 }

/-- 30_encoding.md R103: the packed layout of D5; `LEN_DEVICEINFO` = 38, `DEVTYPE_FIELD_LEN` = 15, `SN_LEN` = 11. -/
def deviceInfo : DeviceInfoLayout :=
  { len := 38, devType := 0, devTypeLen := 15, hwVer := 15, appVer := 17, bootVer := 19, runArea := 21,
    sn := 23, snLen := 11, year := 34, month := 36, day := 37 }

/-- 30_encoding.md R104: sizes and offsets by D5 and D6; `LEN_SYSTEMINFO` = 6. The record's fields in Machine/State.lean
have these widths. -/
abbrev systemInfo : SystemInfoLayout :=
  { len := 6, blkLev := ⟨0, 1⟩, opp := ⟨1, 2⟩, otp := ⟨3, 2⟩, volLev := ⟨5, 1⟩ }

/-- 30_encoding.md R105 and R106: sizes by D6; `LEN_BASICSET` = 10, `LEN_ACK` = 1. The record's fields in
Machine/State.lean have these widths. -/
abbrev basicSet : BasicSetLayout :=
  { len := 10, lenAck := 1, index := ⟨0, 1⟩, state := ⟨1, 1⟩, voSet := ⟨2, 2⟩, ioSet := ⟨4, 2⟩, ovpSet := ⟨6, 2⟩,
    ocpSet := ⟨8, 2⟩ }

end Sys2Proof.Params
end

