-- ==== Sys2Proof/Machine/Operands.lean ====
section
/-! DEFINITION. The operand forms: reading a byte sequence (00_scope.md R10, 20_memory.md R60), the one byte order
(20_memory.md R65, R68; 30_encoding.md R99), the header word of the opcode map (30_encoding.md R98), the text field
(30_encoding.md R100), the payload conditions of the request rows (R107 to R109) and the length test of the extractors
(00_scope.md R7). -/

namespace Sys2Proof

/-- `lo8(v)`, 00_scope.md R9. -/
def lo8 (v : Word) : Byte := v.extractLsb' 0 8

/-- `hi8(v)`, 00_scope.md R9. -/
def hi8 (v : Word) : Byte := v.extractLsb' 8 8

/-- The word whose low byte is `lo` and whose high byte is `hi`: the byte at the lower offset is the less
significant, 20_memory.md R65. -/
def le16 (lo hi : Byte) : Word := (hi ++ lo : BitVec 16)

/-- A word as the two bytes a builder writes, low byte first, 20_memory.md R65, R66. -/
def leBytes (v : Word) : List Byte := [lo8 v, hi8 v]

/-- One byte of a sequence. No rule reads past the end (20_memory.md R77; log entry 16), so the 0 stands for no
value of the codec's. -/
def byteAt (b : List Byte) (o : Nat) : Byte := b.getD o 0#8

/-- A 16-bit field at offset `o`, two byte reads at any alignment, 30_encoding.md R99 and 20_memory.md R69. -/
def le16At (b : List Byte) (o : Nat) : Word := le16 (byteAt b o) (byteAt b (o + 1))

/-- The value of the `n` bytes from offset `o`, the byte at the lower offset less significant (20_memory.md R65). -/
def leNatAt (b : List Byte) (o : Nat) : Nat → Nat
  | 0 => 0
  | n + 1 => (byteAt b o).toNat + 256 * leNatAt b (o + 1) n

/-- A payload field at its place and width in the parameters. -/
def fieldAt (b : List Byte) (f : Field) : BitVec f.bits := BitVec.ofNat f.bits (leNatAt b f.off f.size)

/-- `MemRead(S, a, n)`, the bytes `S[a:a+n]`, 00_scope.md R10. -/
def slice (b : List Byte) (a n : Nat) : List Byte := (b.drop a).take n

/-- Bytes 0 and 1 of a payload that pushes settings: `MODE_MODIFY` and the enable byte, 1 or 0, 30_encoding.md R107. -/
def settingsBytes (mode en : Byte) : Bool := mode == Params.modeModify && (en == 0#8 || en == 1#8)

/-- The byte of a payload that asks for the settings: `MODE_ACTIVATE`, 30_encoding.md R108. -/
def queryByte (mode : Byte) : Bool := mode == Params.modeActivate

/-- The payload has a length that `LEN_POLICY` takes for this expected one, 00_scope.md R7; by default that is equality
(43_payload_decode.md R190 (a)). -/
def lengthFits (p : List Byte) (len : Nat) : Bool :=
  match Params.lenPolicy with
  | .exact => p.length == len
  | .atLeast => decide (len ≤ p.length)

/-- The header word H of 30_encoding.md R98. -/
def headerWord (marker op reserved len : Byte) : Header := (marker ++ op ++ reserved ++ len : BitVec 32)

/-- The bytes before the first zero byte, 30_encoding.md R100. -/
def upToZero : List Byte → List Byte
  | [] => []
  | b :: rest => if b = 0#8 then [] else b :: upToZero rest

/-- `devtype_text(P)`, 43_payload_decode.md R193: the search never leaves the 15-byte field. -/
def devtypeText (p : List Byte) : List Byte :=
  upToZero (slice p Params.deviceInfo.devType Params.deviceInfo.devTypeLen)

end Sys2Proof
end

