-- ==== Sys2Proof/Machine/Flags.lean ====
section
/-! DEFINITION. What the codec computes to judge bytes, in the place where a processor has its flags: the checksum
(40_crc.md R130 to R135) and the well-formedness of text (43_payload_decode.md R194). The codec keeps no flag
register but RESULT (10_state.md R31). -/

namespace Sys2Proof

/-- The 16-bit generator the register is xored with: without its x^16 term, and reversed end for end when the
algorithm is reflected (0xA001 at the default), 40_crc.md R130, R131. -/
def crcGen (cfg : CrcCfg) : Word :=
  let g := cfg.poly17.setWidth 16
  if cfg.reflected then g.reverse else g

/-- One bit turn, 40_crc.md R130. The left-shifting form is the one R131 warns of: it is used only by a
configuration that is not reflected. -/
def crcTurn (reflected : Bool) (gen c : Word) : Word :=
  if reflected then
    if c.getLsbD 0 then (c >>> 1) ^^^ gen else c >>> 1
  else
    if c.getLsbD 15 then (c <<< 1) ^^^ gen else c <<< 1

/-- `n` bit turns. -/
def crcTurns (reflected : Bool) (gen : Word) : Nat → Word → Word
  | 0, c => c
  | n + 1, c => crcTurns reflected gen n (crcTurn reflected gen c)

/-- One turn of the outer loop of 40_crc.md R130: the byte enters, then eight bit turns. -/
def crcByte (reflected : Bool) (gen c : Word) (b : Byte) : Word :=
  crcTurns reflected gen 8 (c ^^^ (if reflected then b.setWidth 16 else b.setWidth 16 <<< 8))

/-- The checksum of a byte sequence under a configuration, 40_crc.md R130 and 00_scope.md R6. -/
def crcWith (cfg : CrcCfg) (d : List Byte) : Word :=
  d.foldl (crcByte cfg.reflected (crcGen cfg)) cfg.init ^^^ cfg.xorout

/-- `crc16(D)`, 40_crc.md R130: every computation starts anew (10_state.md R34). -/
def crc16 (d : List Byte) : Word := crcWith Params.crcCfg d

/-- `seal(B)`, 40_crc.md R134. -/
def sealBytes (b : List Byte) : List Byte := b ++ leBytes (crc16 b)

/-- Checksum-valid, 40_crc.md R135: the whole 16-bit result is the residue. -/
def checksumValid (f : List Byte) : Bool := crc16 f == Params.crcCfg.residue

/-- A byte within a range of the table of 43_payload_decode.md R194. -/
def inRange (lo hi b : Byte) : Bool := lo ≤ b && b ≤ hi

/-- `utf8_wellformed(t)`, the table of 43_payload_decode.md R194 row by row; strict, no replacement. -/
def utf8Wellformed : List Byte → Bool
  | [] => true
  | b :: t =>
    if inRange 0x00#8 0x7F#8 b then utf8Wellformed t
    else match t with
    | [] => false
    | c :: t =>
      if inRange 0xC2#8 0xDF#8 b then inRange 0x80#8 0xBF#8 c && utf8Wellformed t
      else match t with
      | [] => false
      | d :: t =>
        if b = 0xE0#8 then inRange 0xA0#8 0xBF#8 c && inRange 0x80#8 0xBF#8 d && utf8Wellformed t
        else if inRange 0xE1#8 0xEC#8 b then inRange 0x80#8 0xBF#8 c && inRange 0x80#8 0xBF#8 d && utf8Wellformed t
        else if b = 0xED#8 then inRange 0x80#8 0x9F#8 c && inRange 0x80#8 0xBF#8 d && utf8Wellformed t
        else if inRange 0xEE#8 0xEF#8 b then inRange 0x80#8 0xBF#8 c && inRange 0x80#8 0xBF#8 d && utf8Wellformed t
        else match t with
        | [] => false
        | e :: t =>
          if b = 0xF0#8 then
            inRange 0x90#8 0xBF#8 c && inRange 0x80#8 0xBF#8 d && inRange 0x80#8 0xBF#8 e && utf8Wellformed t
          else if inRange 0xF1#8 0xF3#8 b then
            inRange 0x80#8 0xBF#8 c && inRange 0x80#8 0xBF#8 d && inRange 0x80#8 0xBF#8 e && utf8Wellformed t
          else if b = 0xF4#8 then
            inRange 0x80#8 0x8F#8 c && inRange 0x80#8 0xBF#8 d && inRange 0x80#8 0xBF#8 e && utf8Wellformed t
          else false

end Sys2Proof
end

