-- ==== Sys2Proof/Syntax.lean ====
section
/-! DEFINITION. The instructions: one constructor per row of spec/opcode_table.json, in the table's order. The
spec has them at two levels (30_encoding.md, opening): the four commands of the codec (R112) and the frame kinds,
requests (R109) and replies (R110). -/

namespace Sys2Proof

/-- What the host presents to the codec at once (20_memory.md R60): a command, its 2-bit selector with the bytes of
its operands, or a frame, a request kind to be built or a buffer received from the device. The byte form of the
operands is the model's (DESIGN CHOICE, log entry 1). -/
inductive Packet where
  | command (sel : BitVec 2) (operand : List Byte)
  | frame (bytes : List Byte)
deriving DecidableEq, Repr

/-- The operands of a reply row: all of a received buffer but its marker, operation code and length byte. `crc` is
the checksum field as received, right or wrong; `trailing` are the bytes behind the frame, which play no part
(42_frame_parse.md R180). -/
structure Reply where
  reserved : Byte
  payload  : List Byte
  crc      : Word
  trailing : List Byte
deriving DecidableEq, Repr

/-- The instructions, one constructor per row of spec/opcode_table.json. -/
inductive Instr where
  /-- CMD 0, 40_crc.md R133 -/
  | crc16 (data : List Byte)
  /-- CMD 1, 41_frame_build.md R151 -/
  | encode (op : Byte) (pay : List Byte)
  /-- CMD 2, 41_frame_build.md R154 -/
  | genSet (en : Bool) (v i ovp ocp : Word)
  /-- CMD 3, 42_frame_parse.md R170 -/
  | decode (rx : List Byte)
  /-- 41_frame_build.md R159 -/
  | reqNone (pay : List Byte)
  /-- 41_frame_build.md R156 -/
  | reqDeviceinfo
  /-- 41_frame_build.md R156 -/
  | reqBasicinfo
  /-- 41_frame_build.md R157; the operands are the fields of 30_encoding.md R107 -/
  | reqBasicsetModify (mode en : Byte) (v i ovp ocp : Word)
  /-- 41_frame_build.md R158; the operand is the byte of 30_encoding.md R108 -/
  | reqBasicsetActivate (mode : Byte)
  /-- 41_frame_build.md R156 -/
  | reqSysteminfo
  /-- 41_frame_build.md R159 -/
  | reqScanout (pay : List Byte)
  /-- 41_frame_build.md R159 -/
  | reqSerialout (pay : List Byte)
  /-- 43_payload_decode.md R192 -/
  | rspDeviceinfo (r : Reply)
  /-- 43_payload_decode.md R191 -/
  | rspBasicinfo (r : Reply)
  /-- 43_payload_decode.md R196 -/
  | rspBasicset (r : Reply)
  /-- 43_payload_decode.md R197 -/
  | rspBasicsetAck (r : Reply)
  /-- 43_payload_decode.md R195 -/
  | rspSysteminfo (r : Reply)
  /-- 43_payload_decode.md R190(a) -/
  | rspBadlenDeviceinfo (r : Reply)
  /-- 43_payload_decode.md R190(a) -/
  | rspBadlenBasicinfo (r : Reply)
  /-- 43_payload_decode.md R198 -/
  | rspBadlenBasicset (r : Reply)
  /-- 43_payload_decode.md R190(a) -/
  | rspBadlenSysteminfo (r : Reply)
  /-- 43_payload_decode.md R199 -/
  | rspNone (r : Reply)
  /-- 43_payload_decode.md R199 -/
  | rspScanout (r : Reply)
  /-- 43_payload_decode.md R199 -/
  | rspSerialout (r : Reply)
  /-- 43_payload_decode.md R199; the operation code is an operand -/
  | rspUnassigned (op : Byte) (r : Reply)
deriving DecidableEq, Repr

/-- A row of the opcode map over the header word, 30_encoding.md R98: a frame matches when
`(H and mask) = value` and its payload meets the row's condition. `make` is what the row stands for once the frame's
operands are known. -/
structure OpcodeRow (α : Type) where
  value : Header
  mask  : Header
  cond  : List Byte → Bool
  make  : α

/-- Why a packet is no instruction: the decoder's refusals, by name. All are safe: no state is entered. -/
inductive Reject where
  /-- ENCODE without the byte of its operation code (30_encoding.md R112: `op` is an operand) -/
  | missingOperand
  /-- ENCODE with more than 255 payload bytes (41_frame_build.md R152) -/
  | payloadTooLong
  /-- GEN_SET with other than its nine operand bytes (41_frame_build.md R155) -/
  | genSetOperands
  /-- GEN_SET whose enable operand is not one bit (41_frame_build.md R155) -/
  | enableNotABit
  /-- a request frame that is not exactly 6 + N bytes (20_memory.md R62) -/
  | requestExtent
  /-- a request frame whose reserved byte is not 0 (30_encoding.md R93) -/
  | reservedNotZero
deriving DecidableEq, Repr

end Sys2Proof
end

