-- ==== Sys2Proof/Machine/Frame.lean ====
section
/-! DEFINITION. The bytes of a frame (30_encoding.md R90 to R97): the frame builder's internal function (41_frame_build.md
R150), the basic-set request payload (30_encoding.md R107) and a received buffer put together from a reply row's
operands. -/

namespace Sys2Proof

/-- The four header bytes before a payload, 30_encoding.md R90: the length byte counts payload bytes only (R94). -/
def header (marker op reserved : Byte) (pay : List Byte) : List Byte :=
  [marker, op, reserved, BitVec.ofNat 8 pay.length]

/-- `frame(m, op, P)`, 41_frame_build.md R150. -/
def frameOf (marker op : Byte) (pay : List Byte) : List Byte :=
  sealBytes (header marker op 0#8 pay ++ pay)

/-- The ten payload bytes of a basic-set request, 30_encoding.md R107. -/
def basicsetPayload (mode en : Byte) (v i ovp ocp : Word) : List Byte :=
  [mode, en] ++ leBytes v ++ leBytes i ++ leBytes ovp ++ leBytes ocp

/-- `GEN_SET(en, v, i, ovp, ocp)`, 41_frame_build.md R154. -/
def genSetPayload (en : Bool) (v i ovp ocp : Word) : List Byte :=
  basicsetPayload Params.modeModify (if en then 1#8 else 0#8) v i ovp ocp

/-- The 6 + N bytes of a received reply with this operation code. -/
def replyFrame (op : Byte) (r : Reply) : List Byte :=
  header Params.markD2H op r.reserved r.payload ++ r.payload ++ leBytes r.crc

/-- The received buffer: the reply and whatever stands behind it, 42_frame_parse.md R180. -/
def replyBytes (op : Byte) (r : Reply) : List Byte := replyFrame op r ++ r.trailing

/-- The bytes are a frame that ENCODE can have built, 41_frame_build.md R151: the one that `frameOf` gives for the
operation code and payload they show. -/
def builtByEncode (tx : List Byte) : Bool :=
  decide (tx = frameOf Params.markH2D (byteAt tx 1) (slice tx Params.hdrLen (byteAt tx 3).toNat))

end Sys2Proof
end

