-- ==== Sys2Proof/Machine/State.lean ====
section
/-! DEFINITION. The state of the machine: the Device State Model (10_state.md R21 to R25), RESULT (R31), PHASE (R33),
and two fields of the model's own, the host's moves not yet taken and what the codec last handed back (log entries
2 and 3). All plain data. Reset is 10_state.md R36, R37 and 70_reset_and_hazards.md R261. -/

namespace Sys2Proof.Machine

open Sys2Proof

/-- 10_state.md R22. Temperatures are unsigned. -/
structure BasicInfo where
  vin     : Word
  vout    : Word
  iout    : Word
  voMax   : Word
  temp1   : Word
  temp2   : Word
  auxV    : Word
  outMode : Byte
  workSt  : Byte
deriving DecidableEq, Repr

/-- 10_state.md R23. `devType` is the text before its terminator, at most 15 bytes; `sn` is eleven bytes
(Safety.lean states both; every step keeps them). -/
structure DeviceInfo where
  devType : List Byte
  hwVer   : Word
  appVer  : Word
  bootVer : Word
  runArea : Word
  sn      : List Byte
  year    : Word
  month   : Byte
  day     : Byte
deriving DecidableEq, Repr

/-- 10_state.md R24, each field of its width in the parameters (43_payload_decode.md R195; u8, u16, u16, u8 by
default). -/
structure SystemInfo where
  blkLev : BitVec Params.systemInfo.blkLev.bits
  opp    : BitVec Params.systemInfo.opp.bits
  otp    : BitVec Params.systemInfo.otp.bits
  volLev : BitVec Params.systemInfo.volLev.bits
deriving DecidableEq, Repr

/-- 10_state.md R25, each field of its width in the parameters (92_eei_decisions.md D6; two u8 and four u16 by
default): `index` and `state` are the raw payload bytes. -/
structure BasicSet where
  index  : BitVec Params.basicSet.index.bits
  state  : BitVec Params.basicSet.state.bits
  voSet  : BitVec Params.basicSet.voSet.bits
  ioSet  : BitVec Params.basicSet.ioSet.bits
  ovpSet : BitVec Params.basicSet.ovpSet.bits
  ocpSet : BitVec Params.basicSet.ocpSet.bits
deriving DecidableEq, Repr

/-- The Device State Model, 10_state.md R21: four independent records. -/
structure Dsm where
  basicInfo  : BasicInfo
  deviceInfo : DeviceInfo
  systemInfo : SystemInfo
  basicSet   : BasicSet
deriving DecidableEq, Repr

/-- The result kinds, 60_exceptions.md R220. -/
inductive ResultKind where
  | none
  | updated
  | ignored
  | crcError
  | protocolViolation
  | decodeError
  | unrecognized
  | shortBuffer
deriving DecidableEq, Repr

/-- `RESULT = (KIND, OP)`, 10_state.md R31. -/
structure Result where
  kind : ResultKind
  op   : Byte
deriving DecidableEq, Repr

/-- The per-cycle state machine, 10_state.md R33: ghost state. -/
inductive Phase where
  | idle
  | frameSent
  | awaitingReply
  | decoded
  | rejected
deriving DecidableEq, Repr

/-- The parsed view of a frame whose checksum passed, 42_frame_parse.md R176. -/
structure View where
  op      : Byte
  len     : Byte
  payload : List Byte
deriving DecidableEq, Repr

/-- What the host may read, by name: every field of the Device State Model, and RESULT (10_state.md R26, R31). -/
inductive Register where
  | vin | vout | iout | voMax | temp1 | temp2 | auxV | outMode | workSt
  | devType | hwVer | appVer | bootVer | runArea | sn | year | month | day
  | blkLev | opp | otp | volLev
  | index | state | voSet | ioSet | ovpSet | ocpSet
  | result
deriving DecidableEq, Repr

/-- The value of a register read: a number of the register's width, a byte string, or RESULT. -/
inductive RegValue where
  | num (width : Nat) (v : BitVec width)
  | bytes (v : List Byte)
  | result (r : Result)
deriving DecidableEq, Repr

/-- What the codec hands back to the host, 70_reset_and_hazards.md R264, column 'gets back'. -/
inductive Output where
  /-- nothing handed back yet by this instance -/
  | nothing
  /-- CRC16's u16 -/
  | crc (c : Word)
  /-- ENCODE's TX -/
  | frame (tx : List Byte)
  /-- GEN_SET's PAY -/
  | payload (pay : List Byte)
  /-- DECODE's result, with the parsed view after a good checksum -/
  | decoded (r : Result) (view : Option View)
  /-- the value of a register the host read -/
  | reg (v : RegValue)
  /-- the host-level condition of 60_exceptions.md R230, never a result kind -/
  | transportError
deriving DecidableEq, Repr

/-- What the host can do beside issuing a command, 70_reset_and_hazards.md R264, one constructor per interaction; the
last two are the ways the transport's read can fail (60_exceptions.md R230). -/
inductive HostAct where
  /-- hand these bytes to the transport's write -/
  | send (tx : List Byte)
  /-- after the settle delay, issue the transport's read; the buffer stands in the host's later DECODE (log entry 26) -/
  | recv
  /-- read a register -/
  | read (r : Register)
  /-- create an instance -/
  | reset
  /-- the transport's read fails and the host is told -/
  | readFails
  /-- the transport's read never returns -/
  | readHangs
deriving DecidableEq, Repr

/-- One move of the host: present a command or a frame, or act otherwise. -/
inductive HostMove where
  | issue (p : Packet)
  | act (a : HostAct)
deriving DecidableEq, Repr

/-- Why the machine stops. -/
inductive Fault where
  /-- Raised by the host's act `readHangs` alone: the transport's read never returns, so there is no next step of the
  host (93_implementation_defined.md U8, treated as stuck). Safe: the machine stops where the host hangs. -/
  | transportNeverReturns
deriving DecidableEq, Repr

/-- Why a step has no meaning. -/
inductive Refusal where
  /-- Raised by an arm of exec for an instruction without a meaning yet. Safe. No arm raises it now. -/
  | notModelled (mnemonic : String)
  /-- Raised by the meanings that build a frame when the payload exceeds 255 bytes: not an admissible operand, no
  result is defined (41_frame_build.md R152). Safe. -/
  | payloadTooLong
  /-- Raised by step when the host issues a packet that is no instruction; the reason says why. Safe. -/
  | badPacket (why : Reject)
deriving DecidableEq, Repr

/-- The state of the machine. -/
structure State where
  /-- the Device State Model, 10_state.md R20 (1) -/
  dsm    : Dsm
  /-- RESULT, 10_state.md R20 (2) -/
  result : Result
  /-- PHASE, 10_state.md R20 (3) -/
  phase  : Phase
  /-- the model's own: what was handed back last (log entry 3) -/
  out    : Output
  /-- the model's own: the host's moves not yet taken, oldest first (log entry 2) -/
  moves  : List HostMove
deriving DecidableEq, Repr

/-- Every field zero, 10_state.md R36. -/
def Dsm.reset : Dsm :=
  { basicInfo := { vin := 0#16, vout := 0#16, iout := 0#16, voMax := 0#16, temp1 := 0#16, temp2 := 0#16,
                   auxV := 0#16, outMode := 0#8, workSt := 0#8 }
    deviceInfo := { devType := [], hwVer := 0#16, appVer := 0#16, bootVer := 0#16, runArea := 0#16,
                    sn := List.replicate 11 0#8, year := 0#16, month := 0#8, day := 0#8 }
    systemInfo := { blkLev := 0#_, opp := 0#_, otp := 0#_, volLev := 0#_ }
    basicSet := { index := 0#_, state := 0#_, voSet := 0#_, ioSet := 0#_, ovpSet := 0#_, ocpSet := 0#_ } }

/-- The machine right after reset, 70_reset_and_hazards.md R261; the model's own fields are empty. -/
def State.reset : State :=
  { dsm := Dsm.reset
    result := { kind := .none, op := 0#8 }
    phase := .idle
    out := .nothing
    moves := [] }

end Sys2Proof.Machine
end

