-- ==== Sys2Proof/Machine/Ops.lean ====
section
/-! DEFINITION. The named operations over the state: writing one field, ending a DECODE (60_exceptions.md R232, the
codec's only form of exception, and 42_frame_parse.md R179), replacing a record (10_state.md R27), and handing a
built frame back. There is no return from an exception and nothing to restore (60_exceptions.md R234). -/

namespace Sys2Proof.Machine

open Sys2Proof

def State.setDsm (s : State) (d : Dsm) : State := { s with dsm := d }
def State.setResult (s : State) (r : Result) : State := { s with result := r }
def State.setPhase (s : State) (p : Phase) : State := { s with phase := p }
def State.setOut (s : State) (o : Output) : State := { s with out := o }
def State.setMoves (s : State) (m : List HostMove) : State := { s with moves := m }

/-- The numeric codes of 60_exceptions.md R220. -/
def ResultKind.code : ResultKind → BitVec 3
  | .none => 0#3
  | .updated => 1#3
  | .ignored => 2#3
  | .crcError => 3#3
  | .protocolViolation => 4#3
  | .decodeError => 5#3
  | .unrecognized => 6#3
  | .shortBuffer => 7#3

/-- The kinds reached only after the checksum has vouched for byte 1, 10_state.md R31. -/
def ResultKind.carriesOp : ResultKind → Bool
  | .updated | .protocolViolation | .decodeError | .unrecognized => true
  | .none | .ignored | .crcError | .shortBuffer => false

/-- What RESULT holds for a kind and frame byte 1, 10_state.md R31. -/
def resultOf (k : ResultKind) (op : Byte) : Result :=
  { kind := k, op := if k.carriesOp then op else 0#8 }

/-- PHASE when a DECODE ends, 10_state.md R33: it moves only from AwaitingReply. R33 moves it on the DECODE of the
buffer read (R182 and 70_reset_and_hazards.md R270 rest on it; 60_exceptions.md R232 settles a raised error, not
Updated or Ignored); here no read is matched to a buffer, and every DECODE in AwaitingReply counts as that one, of a
hand-made buffer too (DESIGN CHOICE, unsafe for claims about PHASE; log entry 26). -/
def phaseAfter (k : ResultKind) : Phase → Phase
  | .awaitingReply => if k = .updated then .decoded else .rejected
  | p => p

/-- A DECODE ends: RESULT and PHASE are written, the result and the view go to the host; no record is touched. -/
def State.conclude (s : State) (k : ResultKind) (op : Byte) (view : Option View) : State :=
  ((s.setResult (resultOf k op)).setPhase (phaseAfter k s.phase)).setOut (.decoded (resultOf k op) view)

/-- `raise <Kind>(op)`, 60_exceptions.md R232, every error's one entry. `Ignored` ends a DECODE the same way
(42_frame_parse.md R172). -/
def State.raise (s : State) (k : ResultKind) (op : Byte) (view : Option View) : State :=
  s.conclude k op view

/-- What an extractor that succeeds does to the Device State Model, 42_frame_parse.md R182: one whole record is
replaced, or none for the acknowledgement. -/
inductive Update where
  | basicInfo (r : BasicInfo)
  | deviceInfo (r : DeviceInfo)
  | systemInfo (r : SystemInfo)
  | basicSet (r : BasicSet)
  | acknowledged
deriving DecidableEq, Repr

/-- The whole record is written at once, 20_memory.md R71; the others keep their values, 10_state.md R21. -/
def Dsm.apply (d : Dsm) : Update → Dsm
  | .basicInfo r => { d with basicInfo := r }
  | .deviceInfo r => { d with deviceInfo := r }
  | .systemInfo r => { d with systemInfo := r }
  | .basicSet r => { d with basicSet := r }
  | .acknowledged => d

/-- The extractor has answered: the record is written and DECODE ends with Updated (42_frame_parse.md R179), or the
extractor's error is raised (43_payload_decode.md R190). -/
def State.concludeReply (s : State) (v : View) (x : Except ResultKind Update) : State :=
  match x with
  | .ok u => (s.setDsm (s.dsm.apply u)).conclude .updated v.op (some v)
  | .error k => s.raise k v.op (some v)

/-- `ENCODE op PAY`, 41_frame_build.md R151: TX is handed back and nothing else changes; a payload that no frame can
carry is no operand (R152). -/
def buildRequest (op : Byte) (pay : List Byte) (s : State) : Host.Outcome State Fault Refusal :=
  if pay.length ≤ Params.maxPayload then .next (s.setOut (.frame (frameOf Params.markH2D op pay)))
  else .refused .payloadTooLong

end Sys2Proof.Machine
end

