-- ==== Sys2Proof/Machine/Builder.lean ====
section
/-! DEFINITION. Operation family 2, the frame builder (41_frame_build.md): the meanings of ENCODE, GEN_SET and the
request rows, which are the pseudo-operations of 30_encoding.md R114 and the three codes of R159. -/

namespace Sys2Proof.Machine

open Sys2Proof

/-- ENCODE, 41_frame_build.md R151, R152. -/
def execEncode (op : Byte) (pay : List Byte) (s : State) : Host.Outcome State Fault Refusal :=
  buildRequest op pay s

/-- GEN_SET, 41_frame_build.md R154: the BasicSet record is not touched. -/
def execGenSet (en : Bool) (v i ovp ocp : Word) (s : State) : Host.Outcome State Fault Refusal :=
  .next (s.setOut (.payload (genSetPayload en v i ovp ocp)))

/-- REQ.NONE, 41_frame_build.md R159. -/
def execReqNone (pay : List Byte) (s : State) : Host.Outcome State Fault Refusal :=
  buildRequest Params.opNone pay s

/-- REQ.DEVICEINFO, 41_frame_build.md R156. -/
def execReqDeviceinfo (s : State) : Host.Outcome State Fault Refusal :=
  buildRequest Params.opDeviceinfo [] s

/-- REQ.BASICINFO, 41_frame_build.md R156. -/
def execReqBasicinfo (s : State) : Host.Outcome State Fault Refusal :=
  buildRequest Params.opBasicinfo [] s

/-- REQ.BASICSET.MODIFY, 41_frame_build.md R157: GEN_SET's payload given to ENCODE. No packet decodes to this row with
another mode byte; the term builds its frame all the same, as ENCODE does (30_encoding.md R111 (e); log entry 7). -/
def execReqBasicsetModify (mode en : Byte) (v i ovp ocp : Word) (s : State) : Host.Outcome State Fault Refusal :=
  buildRequest Params.opBasicset (basicsetPayload mode en v i ovp ocp) s

/-- REQ.BASICSET.ACTIVATE, 41_frame_build.md R158; with another byte as for REQ.BASICSET.MODIFY (log entry 7). -/
def execReqBasicsetActivate (mode : Byte) (s : State) : Host.Outcome State Fault Refusal :=
  buildRequest Params.opBasicset [mode] s

/-- REQ.SYSTEMINFO, 41_frame_build.md R156. -/
def execReqSysteminfo (s : State) : Host.Outcome State Fault Refusal :=
  buildRequest Params.opSysteminfo [] s

/-- REQ.SCANOUT, 41_frame_build.md R159. -/
def execReqScanout (pay : List Byte) (s : State) : Host.Outcome State Fault Refusal :=
  buildRequest Params.opScanout pay s

/-- REQ.SERIALOUT, 41_frame_build.md R159. -/
def execReqSerialout (pay : List Byte) (s : State) : Host.Outcome State Fault Refusal :=
  buildRequest Params.opSerialout pay s

end Sys2Proof.Machine
end

