-- ==== Sys2Proof/Machine/Checksum.lean ====
section
/-! DEFINITION. Operation family 1, the checksum unit (40_crc.md): the meaning of CRC16. The function itself stands in
Machine/Flags.lean. -/

namespace Sys2Proof.Machine

open Sys2Proof

/-- CRC16, 40_crc.md R133: no state but the value handed back. -/
def execCrc16 (data : List Byte) (s : State) : Host.Outcome State Fault Refusal :=
  .next (s.setOut (.crc (crc16 data)))

end Sys2Proof.Machine
end

