-- ==== Sys2Proof/Machine/Payload.lean ====
section
/-! DEFINITION. Operation family 4, the payload-field decoder (43_payload_decode.md): the four extractors and the
meanings of the reply rows. An extractor reads its payload only (R190 (d)) and checks no field against a range
(R190 (e)). -/

namespace Sys2Proof.Machine

open Sys2Proof

/-- `X_BASICINFO`, 43_payload_decode.md R191. -/
def xBasicinfo (p : List Byte) : Except ResultKind Update :=
  if lengthFits p Params.basicInfo.len = false then .error .protocolViolation
  else .ok (.basicInfo
    { vin     := le16At p Params.basicInfo.vin
      vout    := le16At p Params.basicInfo.vout
      iout    := le16At p Params.basicInfo.iout
      voMax   := le16At p Params.basicInfo.voMax
      temp1   := le16At p Params.basicInfo.temp1
      temp2   := le16At p Params.basicInfo.temp2
      auxV    := le16At p Params.basicInfo.auxV
      outMode := byteAt p Params.basicInfo.outMode
      workSt  := byteAt p Params.basicInfo.workSt })

/-- `X_DEVICEINFO`, 43_payload_decode.md R192: the length first, then the text. -/
def xDeviceinfo (p : List Byte) : Except ResultKind Update :=
  if lengthFits p Params.deviceInfo.len = false then .error .protocolViolation
  else if utf8Wellformed (devtypeText p) = false then .error .decodeError
  else .ok (.deviceInfo
    { devType := devtypeText p
      hwVer   := le16At p Params.deviceInfo.hwVer
      appVer  := le16At p Params.deviceInfo.appVer
      bootVer := le16At p Params.deviceInfo.bootVer
      runArea := le16At p Params.deviceInfo.runArea
      sn      := slice p Params.deviceInfo.sn Params.deviceInfo.snLen
      year    := le16At p Params.deviceInfo.year
      month   := byteAt p Params.deviceInfo.month
      day     := byteAt p Params.deviceInfo.day })

/-- `X_SYSTEMINFO`, 43_payload_decode.md R195: length, offsets and widths are the parameters'. -/
def xSysteminfo (p : List Byte) : Except ResultKind Update :=
  if lengthFits p Params.systemInfo.len = false then .error .protocolViolation
  else .ok (.systemInfo
    { blkLev := fieldAt p Params.systemInfo.blkLev
      opp    := fieldAt p Params.systemInfo.opp
      otp    := fieldAt p Params.systemInfo.otp
      volLev := fieldAt p Params.systemInfo.volLev })

/-- `X_BASICSET`, 43_payload_decode.md R196 to R198: acknowledgement, settings, or any other length. `LEN_POLICY` bears
on the settings path alone: length 1 is the acknowledgement (30_encoding.md R106). -/
def xBasicset (p : List Byte) : Except ResultKind Update :=
  if p.length = Params.basicSet.lenAck then
    if byteAt p 0 = Params.ackValue then .ok .acknowledged else .error .protocolViolation
  else if lengthFits p Params.basicSet.len then .ok (.basicSet
    { index  := fieldAt p Params.basicSet.index
      state  := fieldAt p Params.basicSet.state
      voSet  := fieldAt p Params.basicSet.voSet
      ioSet  := fieldAt p Params.basicSet.ioSet
      ovpSet := fieldAt p Params.basicSet.ovpSet
      ocpSet := fieldAt p Params.basicSet.ocpSet })
  else .error .protocolViolation

/-- A reply row: the row applies only once the checksum over the frame has vouched for it (30_encoding.md R110,
42_frame_parse.md R175); then the extractor's answer ends the command. -/
def checkedReply (op : Byte) (r : Reply) (x : Except ResultKind Update) (s : State) : State :=
  if checksumValid (replyFrame op r) then
    s.concludeReply { op := op, len := BitVec.ofNat 8 r.payload.length, payload := r.payload } x
  else s.raise .crcError 0#8 none

/-- RSP.DEVICEINFO, 43_payload_decode.md R192. -/
def execRspDeviceinfo (r : Reply) (s : State) : Host.Outcome State Fault Refusal :=
  .next (checkedReply Params.opDeviceinfo r (xDeviceinfo r.payload) s)

/-- RSP.BASICINFO, 43_payload_decode.md R191. -/
def execRspBasicinfo (r : Reply) (s : State) : Host.Outcome State Fault Refusal :=
  .next (checkedReply Params.opBasicinfo r (xBasicinfo r.payload) s)

/-- RSP.BASICSET, 43_payload_decode.md R196. -/
def execRspBasicset (r : Reply) (s : State) : Host.Outcome State Fault Refusal :=
  .next (checkedReply Params.opBasicset r (xBasicset r.payload) s)

/-- RSP.BASICSET.ACK, 43_payload_decode.md R197. -/
def execRspBasicsetAck (r : Reply) (s : State) : Host.Outcome State Fault Refusal :=
  .next (checkedReply Params.opBasicset r (xBasicset r.payload) s)

/-- RSP.SYSTEMINFO, 43_payload_decode.md R195. -/
def execRspSysteminfo (r : Reply) (s : State) : Host.Outcome State Fault Refusal :=
  .next (checkedReply Params.opSysteminfo r (xSysteminfo r.payload) s)

/-- RSP.BADLEN.DEVICEINFO, 43_payload_decode.md R190 (a): as in each of the four rows RSP.BADLEN.*, the extractor's own
length test turns the payload away, by `LEN_POLICY` (00_scope.md R7; log entry 11). -/
def execRspBadlenDeviceinfo (r : Reply) (s : State) : Host.Outcome State Fault Refusal :=
  .next (checkedReply Params.opDeviceinfo r (xDeviceinfo r.payload) s)

/-- RSP.BADLEN.BASICINFO, 43_payload_decode.md R190 (a). -/
def execRspBadlenBasicinfo (r : Reply) (s : State) : Host.Outcome State Fault Refusal :=
  .next (checkedReply Params.opBasicinfo r (xBasicinfo r.payload) s)

/-- RSP.BADLEN.BASICSET, 43_payload_decode.md R198. -/
def execRspBadlenBasicset (r : Reply) (s : State) : Host.Outcome State Fault Refusal :=
  .next (checkedReply Params.opBasicset r (xBasicset r.payload) s)

/-- RSP.BADLEN.SYSTEMINFO, 43_payload_decode.md R190 (a). -/
def execRspBadlenSysteminfo (r : Reply) (s : State) : Host.Outcome State Fault Refusal :=
  .next (checkedReply Params.opSysteminfo r (xSysteminfo r.payload) s)

/-- RSP.NONE, 43_payload_decode.md R199. -/
def execRspNone (r : Reply) (s : State) : Host.Outcome State Fault Refusal :=
  .next (checkedReply Params.opNone r (.error .unrecognized) s)

/-- RSP.SCANOUT, 43_payload_decode.md R199. -/
def execRspScanout (r : Reply) (s : State) : Host.Outcome State Fault Refusal :=
  .next (checkedReply Params.opScanout r (.error .unrecognized) s)

/-- RSP.SERIALOUT, 43_payload_decode.md R199. -/
def execRspSerialout (r : Reply) (s : State) : Host.Outcome State Fault Refusal :=
  .next (checkedReply Params.opSerialout r (.error .unrecognized) s)

/-- RSP.UNASSIGNED, 43_payload_decode.md R199. -/
def execRspUnassigned (op : Byte) (r : Reply) (s : State) : Host.Outcome State Fault Refusal :=
  .next (checkedReply op r (.error .unrecognized) s)

end Sys2Proof.Machine
end

