-- ==== Sys2Proof/Machine/Parser.lean ====
section
/-! DEFINITION. Operation family 3, the frame parser and validator (42_frame_parse.md): the steps of DECODE up to the
dispatch, and the meaning of DECODE. -/

namespace Sys2Proof.Machine

open Sys2Proof

/-- Steps 1 to 6 of 42_frame_parse.md R170, in that order: the kind the command ends with, or the parsed view. The
reserved byte is not looked at (R173). -/
def parse (rx : List Byte) : Except ResultKind View :=
  if rx.length = 0 then .error .shortBuffer
  else if byteAt rx 0 ≠ Params.markD2H then .error .ignored
  else if rx.length < Params.hdrLen then .error .shortBuffer
  else
    let op := byteAt rx 1
    let n := byteAt rx 3
    if rx.length < Params.hdrLen + n.toNat + Params.crcLen then .error .shortBuffer
    else if checksumValid (slice rx 0 (Params.hdrLen + n.toNat + Params.crcLen)) = false then .error .crcError
    else .ok { op := op, len := n, payload := slice rx Params.hdrLen n.toNat }

/-- Step 7, 42_frame_parse.md R177: the operation code alone chooses; no default arm updates state. -/
def dispatch (v : View) : Except ResultKind Update :=
  if v.op = Params.opDeviceinfo then xDeviceinfo v.payload
  else if v.op = Params.opBasicinfo then xBasicinfo v.payload
  else if v.op = Params.opBasicset then xBasicset v.payload
  else if v.op = Params.opSysteminfo then xSysteminfo v.payload
  else .error .unrecognized

/-- DECODE, 42_frame_parse.md R170. -/
def execDecode (rx : List Byte) (s : State) : Host.Outcome State Fault Refusal :=
  .next (match parse rx with
    | .error k => s.raise k 0#8 none
    | .ok v => s.concludeReply v (dispatch v))

end Sys2Proof.Machine
end

