-- ==== Sys2Proof/Machine/Dispatch.lean ====
section
/-! DEFINITION. The dispatch: one arm per constructor of Instr, each one direct call of its meaning. -/

namespace Sys2Proof.Machine

open Sys2Proof

def exec (i : Instr) (s : State) : Host.Outcome State Fault Refusal :=
  match i with
  | .crc16 data => Sys2Proof.Machine.execCrc16 data s
  | .encode op pay => Sys2Proof.Machine.execEncode op pay s
  | .genSet en v cur ovp ocp => Sys2Proof.Machine.execGenSet en v cur ovp ocp s
  | .decode rx => Sys2Proof.Machine.execDecode rx s
  | .reqNone pay => Sys2Proof.Machine.execReqNone pay s
  | .reqDeviceinfo => Sys2Proof.Machine.execReqDeviceinfo s
  | .reqBasicinfo => Sys2Proof.Machine.execReqBasicinfo s
  | .reqBasicsetModify mode en v cur ovp ocp => Sys2Proof.Machine.execReqBasicsetModify mode en v cur ovp ocp s
  | .reqBasicsetActivate mode => Sys2Proof.Machine.execReqBasicsetActivate mode s
  | .reqSysteminfo => Sys2Proof.Machine.execReqSysteminfo s
  | .reqScanout pay => Sys2Proof.Machine.execReqScanout pay s
  | .reqSerialout pay => Sys2Proof.Machine.execReqSerialout pay s
  | .rspDeviceinfo r => Sys2Proof.Machine.execRspDeviceinfo r s
  | .rspBasicinfo r => Sys2Proof.Machine.execRspBasicinfo r s
  | .rspBasicset r => Sys2Proof.Machine.execRspBasicset r s
  | .rspBasicsetAck r => Sys2Proof.Machine.execRspBasicsetAck r s
  | .rspSysteminfo r => Sys2Proof.Machine.execRspSysteminfo r s
  | .rspBadlenDeviceinfo r => Sys2Proof.Machine.execRspBadlenDeviceinfo r s
  | .rspBadlenBasicinfo r => Sys2Proof.Machine.execRspBadlenBasicinfo r s
  | .rspBadlenBasicset r => Sys2Proof.Machine.execRspBadlenBasicset r s
  | .rspBadlenSysteminfo r => Sys2Proof.Machine.execRspBadlenSysteminfo r s
  | .rspNone r => Sys2Proof.Machine.execRspNone r s
  | .rspScanout r => Sys2Proof.Machine.execRspScanout r s
  | .rspSerialout r => Sys2Proof.Machine.execRspSerialout r s
  | .rspUnassigned op r => Sys2Proof.Machine.execRspUnassigned op r s

end Sys2Proof.Machine
end

