-- ==== Sys2Proof/WellFormed.lean ====
section
/-! DEFINITION. The conditions the spec puts on an instruction's operands: a payload length is one byte
(30_encoding.md R94; 41_frame_build.md R152), a row's payload has the row's length and mode byte (30_encoding.md
R98, R107 to R110). Operands whose type already says the range (41_frame_build.md R155) need no check. -/

namespace Sys2Proof

/-- A payload that a frame can carry, 00_scope.md R5 `MAX_PAYLOAD`. -/
def fitsFrame (pay : List Byte) : Bool := pay.length ≤ Params.maxPayload

/-- The operand conditions of the row, 30_encoding.md R109, R110 and R112. -/
def WellFormed : Instr → Bool
  | .crc16 _ => true
  | .encode _ pay => fitsFrame pay
  | .genSet _ _ _ _ _ => true
  | .decode _ => true
  | .reqNone pay => fitsFrame pay
  | .reqDeviceinfo => true
  | .reqBasicinfo => true
  | .reqBasicsetModify mode en _ _ _ _ => settingsBytes mode en
  | .reqBasicsetActivate mode => queryByte mode
  | .reqSysteminfo => true
  | .reqScanout pay => fitsFrame pay
  | .reqSerialout pay => fitsFrame pay
  | .rspDeviceinfo r => r.payload.length == Params.deviceInfo.len
  | .rspBasicinfo r => r.payload.length == Params.basicInfo.len
  | .rspBasicset r => r.payload.length == Params.basicSet.len
  | .rspBasicsetAck r => r.payload.length == Params.basicSet.lenAck
  | .rspSysteminfo r => r.payload.length == Params.systemInfo.len
  | .rspBadlenDeviceinfo r => fitsFrame r.payload && r.payload.length != Params.deviceInfo.len
  | .rspBadlenBasicinfo r => fitsFrame r.payload && r.payload.length != Params.basicInfo.len
  | .rspBadlenBasicset r =>
    fitsFrame r.payload && r.payload.length != Params.basicSet.len && r.payload.length != Params.basicSet.lenAck
  | .rspBadlenSysteminfo r => fitsFrame r.payload && r.payload.length != Params.systemInfo.len
  | .rspNone r => fitsFrame r.payload
  | .rspScanout r => fitsFrame r.payload
  | .rspSerialout r => fitsFrame r.payload
  | .rspUnassigned op r => fitsFrame r.payload && !Params.enumeratedOps.contains op

end Sys2Proof
end

