-- ==== Sys2Proof/Decode.lean ====
section
/-! DEFINITION. From a packet to an instruction and back. Commands are chosen by the 2-bit selector of 30_encoding.md
R112, of which every value is assigned; frames by the rows of R109 and R110 over the header word, first fit (R98).
The byte form of the commands' operands is the model's (log entry 1); what a frame packet stands for is log entries
7, 8 and 9. -/

namespace Sys2Proof

/-- ENCODE's operands: the operation code, then the payload. -/
def decodeEncode : List Byte → Except Reject Instr
  | [] => .error .missingOperand
  | op :: pay => if fitsFrame pay then .ok (.encode op pay) else .error .payloadTooLong

/-- GEN_SET's operands: the enable bit in a byte of its own, then four words, low byte first. -/
def decodeGenSet (b : List Byte) : Except Reject Instr :=
  if b.length ≠ 9 then .error .genSetOperands
  else if 1#8 < byteAt b 0 then .error .enableNotABit
  else .ok (.genSet (byteAt b 0 == 1#8) (le16At b 1) (le16At b 3) (le16At b 5) (le16At b 7))

/-- The command a selector and its operand bytes stand for, 30_encoding.md R112. -/
def decodeCommand (sel : BitVec 2) (b : List Byte) : Except Reject Instr :=
  if sel = 0#2 then .ok (.crc16 b)
  else if sel = 1#2 then decodeEncode b
  else if sel = 2#2 then decodeGenSet b
  else .ok (.decode b)

/-- A request row whose payload R109 leaves open (its column says "—"): every length fits. -/
def openRequestRow (op : Byte) (make : List Byte → Instr) : OpcodeRow (List Byte → Instr) :=
  ⟨headerWord Params.markH2D op 0#8 0#8, 0xFFFFFF00#32, fun _ => true, make⟩

/-- A request row for one payload length, with what R109 asks of the payload's bytes. -/
def exactRequestRow (op len : Byte) (cond : List Byte → Bool) (make : List Byte → Instr) :
    OpcodeRow (List Byte → Instr) :=
  ⟨headerWord Params.markH2D op 0#8 len, 0xFFFFFFFF#32, cond, make⟩

/-- The rows of 30_encoding.md R109, in its order, with the conditions of its payload column; the operands are taken
from the payload by R107 and R108. -/
def requestRows : List (OpcodeRow (List Byte → Instr)) :=
  [ openRequestRow Params.opNone .reqNone,
    exactRequestRow Params.opDeviceinfo 0#8 (fun _ => true) (fun _ => .reqDeviceinfo),
    exactRequestRow Params.opBasicinfo 0#8 (fun _ => true) (fun _ => .reqBasicinfo),
    exactRequestRow Params.opBasicset 10#8 (fun p => settingsBytes (byteAt p 0) (byteAt p 1))
      (fun p => .reqBasicsetModify (byteAt p 0) (byteAt p 1) (le16At p 2) (le16At p 4) (le16At p 6) (le16At p 8)),
    exactRequestRow Params.opBasicset 1#8 (fun p => queryByte (byteAt p 0))
      (fun p => .reqBasicsetActivate (byteAt p 0)),
    exactRequestRow Params.opSysteminfo 0#8 (fun _ => true) (fun _ => .reqSysteminfo),
    openRequestRow Params.opScanout .reqScanout,
    openRequestRow Params.opSerialout .reqSerialout ]

/-- A row for one operation code and one payload length; the reserved byte is not tested (30_encoding.md R93). No
reply row tests the payload: what R110 says of the acknowledgement byte is not which row applies but what the row ends
in (43_payload_decode.md R197). -/
def exactReplyRow (op : Byte) (len : Nat) (make : Byte → Reply → Instr) : OpcodeRow (Byte → Reply → Instr) :=
  ⟨headerWord Params.markD2H op 0#8 (BitVec.ofNat 8 len), 0xFFFF00FF#32, fun _ => true, make⟩

/-- A row for one operation code and every length that no earlier row has. -/
def opReplyRow (op : Byte) (make : Byte → Reply → Instr) : OpcodeRow (Byte → Reply → Instr) :=
  ⟨headerWord Params.markD2H op 0#8 0#8, 0xFFFF0000#32, fun _ => true, make⟩

/-- The row for every operation code that no earlier row has. -/
def anyReplyRow (make : Byte → Reply → Instr) : OpcodeRow (Byte → Reply → Instr) :=
  ⟨headerWord Params.markD2H 0#8 0#8 0#8, 0xFF000000#32, fun _ => true, make⟩

/-- The rows of 30_encoding.md R110, in its order, the lengths taken from the parameters. -/
def replyRows : List (OpcodeRow (Byte → Reply → Instr)) :=
  [ exactReplyRow Params.opDeviceinfo Params.deviceInfo.len (fun _ => .rspDeviceinfo),
    exactReplyRow Params.opBasicinfo Params.basicInfo.len (fun _ => .rspBasicinfo),
    exactReplyRow Params.opBasicset Params.basicSet.len (fun _ => .rspBasicset),
    exactReplyRow Params.opBasicset Params.basicSet.lenAck (fun _ => .rspBasicsetAck),
    exactReplyRow Params.opSysteminfo Params.systemInfo.len (fun _ => .rspSysteminfo),
    opReplyRow Params.opDeviceinfo (fun _ => .rspBadlenDeviceinfo),
    opReplyRow Params.opBasicinfo (fun _ => .rspBadlenBasicinfo),
    opReplyRow Params.opBasicset (fun _ => .rspBadlenBasicset),
    opReplyRow Params.opSysteminfo (fun _ => .rspBadlenSysteminfo),
    opReplyRow Params.opNone (fun _ => .rspNone),
    opReplyRow Params.opScanout (fun _ => .rspScanout),
    opReplyRow Params.opSerialout (fun _ => .rspSerialout),
    anyReplyRow .rspUnassigned ]

/-- `(H and mask) = match`, 30_encoding.md R98, and the payload is one the row is for. -/
def rowFits {α : Type} (h : Header) (pay : List Byte) (row : OpcodeRow α) : Bool :=
  h &&& row.mask == row.value && row.cond pay

/-- A request frame to be built: exactly one frame, its checksum bytes left to the builder (log entry 7). A frame of
no row, a basic-set request with other bytes than R107 and R108 name among them, is still one that ENCODE builds
(30_encoding.md R109, end, and R111 (e); log entry 8). `rest` stands behind the header. -/
def decodeRequest (op reserved len : Byte) (rest : List Byte) : Except Reject Instr :=
  if rest.length ≠ len.toNat + Params.crcLen then .error .requestExtent
  else if reserved ≠ 0#8 then .error .reservedNotZero
  else
    let pay := rest.take len.toNat
    match requestRows.find? (rowFits (headerWord Params.markH2D op reserved len) pay) with
    | some row => .ok (row.make pay)
    | none => .ok (.encode op pay)

/-- A received buffer that holds a whole frame: the operands of its row. -/
def replyOperands (reserved len : Byte) (rest : List Byte) : Reply :=
  { reserved := reserved
    payload := rest.take len.toNat
    crc := le16At rest len.toNat
    trailing := rest.drop (len.toNat + Params.crcLen) }

/-- A frame packet. Marker 0xFB: a request to be built. Anything else is a received buffer: with marker 0xFA and a
whole frame, the first reply row that fits (30_encoding.md R110); otherwise no row applies and it is DECODE's
operand as it stands (log entry 9). -/
def decodeFrame (bytes : List Byte) : Except Reject Instr :=
  match bytes with
  | marker :: op :: reserved :: len :: rest =>
    if marker = Params.markH2D then decodeRequest op reserved len rest
    else if marker = Params.markD2H ∧ len.toNat + Params.crcLen ≤ rest.length then
      let r := replyOperands reserved len rest
      match replyRows.find? (rowFits (headerWord marker op reserved len) r.payload) with
      | some row => .ok (row.make op r)
      | none => .ok (.decode bytes)
    else .ok (.decode bytes)
  | marker :: _ => if marker = Params.markH2D then .error .requestExtent else .ok (.decode bytes)
  | [] => .ok (.decode [])

/-- The instruction a packet stands for. -/
def decode : Packet → Except Reject Instr
  | .command sel b => decodeCommand sel b
  | .frame b => decodeFrame b

/-- The packet of an instruction, from the same tables: the selectors of 30_encoding.md R112, the request frames of
R109 and the reply frames of R110. -/
def encode : Instr → Packet
  | .crc16 data => .command 0#2 data
  | .encode op pay => .command 1#2 (op :: pay)
  | .genSet en v i ovp ocp =>
    .command 2#2 ([if en then 1#8 else 0#8] ++ leBytes v ++ leBytes i ++ leBytes ovp ++ leBytes ocp)
  | .decode rx => .command 3#2 rx
  | .reqNone pay => .frame (frameOf Params.markH2D Params.opNone pay)
  | .reqDeviceinfo => .frame (frameOf Params.markH2D Params.opDeviceinfo [])
  | .reqBasicinfo => .frame (frameOf Params.markH2D Params.opBasicinfo [])
  | .reqBasicsetModify mode en v i ovp ocp =>
    .frame (frameOf Params.markH2D Params.opBasicset (basicsetPayload mode en v i ovp ocp))
  | .reqBasicsetActivate mode => .frame (frameOf Params.markH2D Params.opBasicset [mode])
  | .reqSysteminfo => .frame (frameOf Params.markH2D Params.opSysteminfo [])
  | .reqScanout pay => .frame (frameOf Params.markH2D Params.opScanout pay)
  | .reqSerialout pay => .frame (frameOf Params.markH2D Params.opSerialout pay)
  | .rspDeviceinfo r => .frame (replyBytes Params.opDeviceinfo r)
  | .rspBasicinfo r => .frame (replyBytes Params.opBasicinfo r)
  | .rspBasicset r => .frame (replyBytes Params.opBasicset r)
  | .rspBasicsetAck r => .frame (replyBytes Params.opBasicset r)
  | .rspSysteminfo r => .frame (replyBytes Params.opSysteminfo r)
  | .rspBadlenDeviceinfo r => .frame (replyBytes Params.opDeviceinfo r)
  | .rspBadlenBasicinfo r => .frame (replyBytes Params.opBasicinfo r)
  | .rspBadlenBasicset r => .frame (replyBytes Params.opBasicset r)
  | .rspBadlenSysteminfo r => .frame (replyBytes Params.opSysteminfo r)
  | .rspNone r => .frame (replyBytes Params.opNone r)
  | .rspScanout r => .frame (replyBytes Params.opScanout r)
  | .rspSerialout r => .frame (replyBytes Params.opSerialout r)
  | .rspUnassigned op r => .frame (replyBytes op r)

/-- The four header bytes of a header word in offset order, 30_encoding.md R98. -/
def headerBytes (h : Header) : List Byte :=
  [h.extractLsb' 24 8, h.extractLsb' 16 8, h.extractLsb' 8 8, h.extractLsb' 0 8]

/-- The packet for a word of spec/opcode_table.json, every bit the table does not give being 0: a row of the
2-bit selector (8 bits in whole bytes) is a command, with the fewest operand bytes its form has; a row over the
header word is a frame, with N zero payload bytes and a zero checksum (log entry 17). -/
def tablePacket (nbits w : Nat) : Packet :=
  if nbits ≤ 8 then
    let sel := BitVec.ofNat 2 w
    .command sel (List.replicate (if sel = 1#2 then 1 else if sel = 2#2 then 9 else 0) 0#8)
  else
    let h := BitVec.ofNat 32 w
    .frame (headerBytes h ++ List.replicate ((h.extractLsb' 0 8).toNat + Params.crcLen) 0#8)

/-- The instruction the decoder reads from a word of spec/opcode_table.json. -/
def decodeTableWord (nbits w : Nat) : Option Instr :=
  match decode (tablePacket nbits w) with
  | .ok i => some i
  | .error _ => none

end Sys2Proof
end

