-- ==== Sys2Proof/Machine/HostMoves.lean ====
section
/-! DEFINITION. What the host does beside issuing commands (70_reset_and_hazards.md R264), the ghost PHASE's moves
(10_state.md R33), and which packet the step fetches. -/

namespace Sys2Proof.Machine

open Sys2Proof

/-- The value of a register, 10_state.md R26, R31. -/
def readRegister (s : State) : Register → RegValue
  | .vin => .num 16 s.dsm.basicInfo.vin
  | .vout => .num 16 s.dsm.basicInfo.vout
  | .iout => .num 16 s.dsm.basicInfo.iout
  | .voMax => .num 16 s.dsm.basicInfo.voMax
  | .temp1 => .num 16 s.dsm.basicInfo.temp1
  | .temp2 => .num 16 s.dsm.basicInfo.temp2
  | .auxV => .num 16 s.dsm.basicInfo.auxV
  | .outMode => .num 8 s.dsm.basicInfo.outMode
  | .workSt => .num 8 s.dsm.basicInfo.workSt
  | .devType => .bytes s.dsm.deviceInfo.devType
  | .hwVer => .num 16 s.dsm.deviceInfo.hwVer
  | .appVer => .num 16 s.dsm.deviceInfo.appVer
  | .bootVer => .num 16 s.dsm.deviceInfo.bootVer
  | .runArea => .num 16 s.dsm.deviceInfo.runArea
  | .sn => .bytes s.dsm.deviceInfo.sn
  | .year => .num 16 s.dsm.deviceInfo.year
  | .month => .num 8 s.dsm.deviceInfo.month
  | .day => .num 8 s.dsm.deviceInfo.day
  | .blkLev => .num _ s.dsm.systemInfo.blkLev
  | .opp => .num _ s.dsm.systemInfo.opp
  | .otp => .num _ s.dsm.systemInfo.otp
  | .volLev => .num _ s.dsm.systemInfo.volLev
  | .index => .num _ s.dsm.basicSet.index
  | .state => .num _ s.dsm.basicSet.state
  | .voSet => .num _ s.dsm.basicSet.voSet
  | .ioSet => .num _ s.dsm.basicSet.ioSet
  | .ovpSet => .num _ s.dsm.basicSet.ovpSet
  | .ocpSet => .num _ s.dsm.basicSet.ocpSet
  | .result => .result s.result

/-- PHASE when the host hands bytes to the transport's write: it moves only from Idle and only for a frame built by
ENCODE, 10_state.md R33 (any other case, log entry 6). -/
def phaseOnSend (tx : List Byte) : Phase → Phase
  | .idle => if builtByEncode tx then .frameSent else .idle
  | p => p

/-- PHASE when the host issues the transport's read: it moves only from FrameSent, 10_state.md R33. -/
def phaseOnRecv : Phase → Phase
  | .frameSent => .awaitingReply
  | p => p

/-- The reply has been judged, so the cycle is over: PHASE goes back to Idle before anything else happens, 10_state.md
R33 (log entry 5). -/
def cycleOver (p : Phase) : Bool := p == .decoded || p == .rejected

/-- One act of the host, 70_reset_and_hazards.md R264. A new instance starts from reset with the host's further moves
before it (70_reset_and_hazards.md R260); a failed read leaves RESULT, the records and PHASE alone (60_exceptions.md
R230). `readFails` and `readHangs` ask for no `recv` before them: outside AwaitingReply too a failed read leaves PHASE
where it is (DESIGN CHOICE, unsafe for claims about PHASE after such a failure; log entry 28). -/
def hostAct (a : HostAct) (s : State) : Host.Outcome State Fault Refusal :=
  match a with
  | .send tx => .next (s.setPhase (phaseOnSend tx s.phase))
  | .recv => .next (s.setPhase (phaseOnRecv s.phase))
  | .read r => .next (s.setOut (.reg (readRegister s r)))
  | .reset => .next (State.reset.setMoves s.moves)
  | .readFails => .next (s.setOut .transportError)
  | .readHangs => .fault .transportNeverReturns

/-- The host's next move is this packet: placed before the moves already there, with PHASE where a move is taken. -/
def presentPacket (p : Packet) (s : State) : State :=
  (s.setMoves (.issue p :: s.moves)).setPhase (if cycleOver s.phase then .idle else s.phase)

end Sys2Proof.Machine
end

