-- ==== Sys2Proof/Machine/Step.lean ====
section
/-! DEFINITION. One step: the end of a cycle, or the host's oldest move (70_reset_and_hazards.md R264), or, when the
host makes no further move (R265), standing idle (log entries 2, 4 and 5). -/

namespace Sys2Proof.Machine

open Sys2Proof

/-- The packet becomes an instruction and runs, or is refused by name. -/
def issue (p : Packet) (s : State) : Host.Outcome State Fault Refusal :=
  match decode p with
  | .ok i => exec i s
  | .error why => .refused (.badPacket why)

/-- One step of the machine. -/
def step (s : State) : Host.Outcome State Fault Refusal :=
  if cycleOver s.phase then .next (s.setPhase .idle)
  else match s.moves with
  | [] => .next s
  | .issue p :: rest => issue p (s.setMoves rest)
  | .act a :: rest => hostAct a (s.setMoves rest)

/-- The state in which the next step fetches exactly the instruction of this word of spec/opcode_table.json. -/
def State.withFetchWord (s : State) (nbits w : Nat) : State := presentPacket (tablePacket nbits w) s

end Sys2Proof.Machine
end

