-- ==== Sys2Proof/Safety.lean ====
section
/-! DEFINITION. What the claims call safe: the invariant that every step keeps, which the record formats and the
result codes impose (10_state.md R23, R31), and the host's obligations (70_reset_and_hazards.md R266 to R270), which
the codec does not enforce. -/

namespace Sys2Proof.Safety

open Sys2Proof Sys2Proof.Machine

/-- DEV_TYPE as 10_state.md R23 has it: at most 15 bytes, no zero byte, well-formed UTF-8. -/
def TextLegal (t : List Byte) : Prop := t.length ≤ 15 ∧ 0#8 ∉ t ∧ utf8Wellformed t = true

/-- RESULT as 10_state.md R31 and 60_exceptions.md R221 to R227 have it: the pairs a DECODE can leave, and the reset
value. -/
def ResultLegal (r : Result) : Prop :=
  match r.kind with
  | .none | .ignored | .crcError | .shortBuffer => r.op = 0#8
  | .updated | .protocolViolation => r.op ∈ Params.extractedOps
  | .decodeError => r.op = Params.opDeviceinfo
  | .unrecognized => r.op ∉ Params.extractedOps

/-- The invariant: the record fields that are byte strings have their form, and RESULT holds a legal pair. -/
structure Inv (s : State) : Prop where
  text   : TextLegal s.dsm.deviceInfo.devType
  serial : s.dsm.deviceInfo.sn.length = 11
  result : ResultLegal s.result

/-- The host's order within a cycle, 70_reset_and_hazards.md R266, R270: it sends from Idle a frame that ENCODE built,
reads after a send, and decodes what it read, within `RXBUF_SIZE` (00_scope.md R8). Building commands may come at any
time, in FrameSent and AwaitingReply too, with the payload length kept (R269): R270 puts building first in a cycle and
does not say whether a build later in it breaks the order (DESIGN CHOICE, unsafe where an order is a premise; log
entry 29). R266 lets a cycle end by being abandoned and gives that no move of PHASE: after a failed read PHASE stays
AwaitingReply, and here no further send is orderly before a DECODE or a new instance (DESIGN CHOICE, unsafe for claims
about PHASE after an abandoned cycle; log entry 27). What makes a buffer the one read is log entry 26. A read that
fails or hangs is taken as orderly in every phase, with no read issued before it (DESIGN CHOICE, unsafe where an order
is a premise; log entry 28). The transport's read is orderly from FrameSent only: one issued again in AwaitingReply,
the 'reattempt read' of 60_exceptions.md R234, is not, which no rule says (DESIGN CHOICE, safe where an order is a
premise; log entry 30). -/
def HostKeepsOrder (s : State) : HostMove → Prop
  | .act (.send tx) => s.phase = .idle ∧ builtByEncode tx = true
  | .act .recv => s.phase = .frameSent
  | .issue (.command sel operand) =>
    if sel = 3#2 then s.phase = .awaitingReply ∧ operand.length ≤ Config.rxbufSize
    else if sel = 1#2 then operand.length ≤ 1 + Params.maxPayload
    else True
  | .issue (.frame bytes) =>
    byteAt bytes 0 ≠ Params.markH2D → s.phase = .awaitingReply ∧ bytes.length ≤ Config.rxbufSize
  | .act (.read _) | .act .reset | .act .readFails | .act .readHangs => True

end Sys2Proof.Safety
end

