-- ==== Sys2Proof/Certificates/Slice0/Obligations.lean ====
section
/-! DEFINITION. The statements for the provers, each def Obligations.<Name> : Prop, and the words of the spec they are
written in (namespace Sys2Proof.Claims). Those words are written from the spec beside the model's own definitions,
so that a statement says more than that a definition equals itself. -/

namespace Sys2Proof.Claims

open Sys2Proof Sys2Proof.Machine

/-! ### Checksum -/

/-- One bit turn at the source's parameters, 40_crc.md R130. -/
def bitTurn (c : Word) : Word := if c.getLsbD 0 then (c >>> 1) ^^^ 0xA001#16 else c >>> 1

/-- One byte of the outer loop, 40_crc.md R130. -/
def byteTurn (c : Word) (b : Byte) : Word :=
  bitTurn (bitTurn (bitTurn (bitTurn (bitTurn (bitTurn (bitTurn (bitTurn (c ^^^ b.setWidth 16))))))))

/-- `T[i]`, 40_crc.md R132: the eight bit turns applied to i. -/
def tableEntry (i : Byte) : Word := byteTurn 0#16 i

/-- The table-driven form of 40_crc.md R132. -/
def tableCrc (d : List Byte) : Word :=
  d.foldl (fun c b => (c >>> 8) ^^^ tableEntry (c.setWidth 8 ^^^ b)) 0xFFFF#16

/-- The sequence with bit `j` of byte `k` inverted. -/
def flipBit (f : List Byte) (k j : Nat) : List Byte := f.modify k (· ^^^ (1#8 <<< j))

/-! ### Frames -/

/-- The length byte of a buffer, frame byte 3. -/
def lengthByte (rx : List Byte) : Nat := (byteAt rx 3).toNat

/-- The buffer holds a whole frame from the device whose checksum is right: the marker, extent and checksum tests of
42_frame_parse.md pass. -/
def Intact (rx : List Byte) : Prop :=
  byteAt rx 0 = 0xFA#8 ∧ 6 + lengthByte rx ≤ rx.length ∧ crc16 (rx.take (6 + lengthByte rx)) = 0#16

/-- The payload of a buffer. -/
def payloadOf (rx : List Byte) : List Byte := (rx.drop 4).take (lengthByte rx)

/-- A little-endian field of a payload, the high byte at the higher offset. -/
def field (p : List Byte) (o : Nat) : Word := (byteAt p (o + 1) ++ byteAt p o : BitVec 16)

/-- The host gets a request frame with this operation code and payload, laid out byte by byte, and nothing else of the
state changes. -/
def BuildsFrame (op : Byte) (pay : List Byte) (s : State) (o : Host.Outcome State Fault Refusal) : Prop :=
  ∃ tx, o = .next { s with out := .frame tx } ∧
    tx.length = 6 + pay.length ∧
    tx.take 4 = [0xFB#8, op, 0x00#8, BitVec.ofNat 8 pay.length] ∧
    (tx.drop 4).take pay.length = pay ∧
    (byteAt tx (4 + pay.length)).toNat + 256 * (byteAt tx (5 + pay.length)).toNat
      = (crc16 (tx.take (4 + pay.length))).toNat ∧
    crc16 tx = 0#16

/-! ### The end of a DECODE -/

/-- DECODE ended with a kind other than Updated: RESULT is written, PHASE goes to Rejected if it was AwaitingReply (for a
raised error by 60_exceptions.md R232; for Ignored, which is returned and not raised, for any buffer by log entry 26), the
result and the view go to the host, and nothing else changes. -/
def rejects (s : State) (r : Result) (v : Option View) : State :=
  { s with result := r
           phase := if s.phase = .awaitingReply then .rejected else s.phase
           out := .decoded r v }

/-- DECODE ended with Updated and these records: RESULT is written, PHASE goes to Decoded if it was AwaitingReply (for
any buffer, log entry 26), the result and the view go to the host, and nothing else changes. -/
def accepts (s : State) (d : Dsm) (v : View) : State :=
  { s with dsm := d
           result := { kind := .updated, op := v.op }
           phase := if s.phase = .awaitingReply then .decoded else s.phase
           out := .decoded { kind := .updated, op := v.op } (some v) }

/-- DECODE ends with this result and view and these records. PHASE is left open here: when it moves is
92_eei_decisions.md D14, which `Obligations.DecodeTouchesAtMostTheNamedRecord` states. -/
def Reports (s : State) (d : Dsm) (r : Result) (v : Option View) (o : Host.Outcome State Fault Refusal) : Prop :=
  ∃ p : Phase, o = .next { s with dsm := d, result := r, phase := p, out := .decoded r v }

/-! ### The reply rows -/

/-- The operation code and operands of a reply row. -/
def replyOf : Instr → Option (Byte × Reply)
  | .rspDeviceinfo r => some (0x10#8, r)
  | .rspBasicinfo r => some (0x30#8, r)
  | .rspBasicset r => some (0x35#8, r)
  | .rspBasicsetAck r => some (0x35#8, r)
  | .rspSysteminfo r => some (0x40#8, r)
  | .rspBadlenDeviceinfo r => some (0x10#8, r)
  | .rspBadlenBasicinfo r => some (0x30#8, r)
  | .rspBadlenBasicset r => some (0x35#8, r)
  | .rspBadlenSysteminfo r => some (0x40#8, r)
  | .rspNone r => some (0x00#8, r)
  | .rspScanout r => some (0x50#8, r)
  | .rspSerialout r => some (0x55#8, r)
  | .rspUnassigned op r => some (op, r)
  | _ => none

/-- The instruction is a DECODE: the command, or a reply row. -/
def receives : Instr → Bool
  | .decode _ => true
  | i => (replyOf i).isSome

/-- The 6 + N bytes of a reply, written out. -/
def replyFrameBytes (op : Byte) (r : Reply) : List Byte :=
  [0xFA#8, op, r.reserved, BitVec.ofNat 8 r.payload.length] ++ r.payload ++ [lo8 r.crc, hi8 r.crc]

/-- The reply's checksum is right. -/
def Vouched (op : Byte) (r : Reply) : Prop := crc16 (replyFrameBytes op r) = 0#16

/-- The parsed view of a reply. -/
def viewOf (op : Byte) (r : Reply) : View :=
  { op := op, len := BitVec.ofNat 8 r.payload.length, payload := r.payload }

/-! ### Text -/

/-- The rows of the table of 43_payload_decode.md R194: the ranges of the bytes of one sequence. -/
def utf8Rows : List (List (Nat × Nat)) :=
  [ [(0x00, 0x7F)],
    [(0xC2, 0xDF), (0x80, 0xBF)],
    [(0xE0, 0xE0), (0xA0, 0xBF), (0x80, 0xBF)],
    [(0xE1, 0xEC), (0x80, 0xBF), (0x80, 0xBF)],
    [(0xED, 0xED), (0x80, 0x9F), (0x80, 0xBF)],
    [(0xEE, 0xEF), (0x80, 0xBF), (0x80, 0xBF)],
    [(0xF0, 0xF0), (0x90, 0xBF), (0x80, 0xBF), (0x80, 0xBF)],
    [(0xF1, 0xF3), (0x80, 0xBF), (0x80, 0xBF), (0x80, 0xBF)],
    [(0xF4, 0xF4), (0x80, 0x8F), (0x80, 0xBF), (0x80, 0xBF)] ]

/-- The bytes fit the ranges of a row, one each. -/
def FitsRow (row : List (Nat × Nat)) (c : List Byte) : Prop :=
  List.Forall₂ (fun r b => r.1 ≤ b.toNat ∧ b.toNat ≤ r.2) row c

/-! ### PHASE -/

/-- The transitions of 10_state.md R33. -/
def CycleEdge (p q : Phase) : Prop :=
  (p, q) ∈ [(Phase.idle, Phase.frameSent), (.frameSent, .awaitingReply), (.awaitingReply, .decoded),
    (.awaitingReply, .rejected), (.decoded, .idle), (.rejected, .idle)]

/-- PHASE is one in which the step takes the host's next move. -/
def TakesMoves (s : State) : Prop := s.phase ≠ .decoded ∧ s.phase ≠ .rejected

/-! ### Registers -/

/-- The field of the state that a register names, with its width: the fields of 10_state.md R22 to R25 in their order,
and RESULT. The widths of the last two records are at their defaults (92_eei_decisions.md D6). -/
def namedField (s : State) : Register → RegValue
  | .vin => .num 16 s.dsm.basicInfo.vin
  | .vout => .num 16 s.dsm.basicInfo.vout
  | .iout => .num 16 s.dsm.basicInfo.iout
  | .voMax => .num 16 s.dsm.basicInfo.voMax
  | .temp1 => .num 16 s.dsm.basicInfo.temp1
  | .temp2 => .num 16 s.dsm.basicInfo.temp2
  | .auxV => .num 16 s.dsm.basicInfo.auxV
  | .outMode => .num 8 s.dsm.basicInfo.outMode
  | .workSt => .num 8 s.dsm.basicInfo.workSt
  | .devType => .bytes s.dsm.deviceInfo.devType
  | .hwVer => .num 16 s.dsm.deviceInfo.hwVer
  | .appVer => .num 16 s.dsm.deviceInfo.appVer
  | .bootVer => .num 16 s.dsm.deviceInfo.bootVer
  | .runArea => .num 16 s.dsm.deviceInfo.runArea
  | .sn => .bytes s.dsm.deviceInfo.sn
  | .year => .num 16 s.dsm.deviceInfo.year
  | .month => .num 8 s.dsm.deviceInfo.month
  | .day => .num 8 s.dsm.deviceInfo.day
  | .blkLev => .num 8 s.dsm.systemInfo.blkLev
  | .opp => .num 16 s.dsm.systemInfo.opp
  | .otp => .num 16 s.dsm.systemInfo.otp
  | .volLev => .num 8 s.dsm.systemInfo.volLev
  | .index => .num 8 s.dsm.basicSet.index
  | .state => .num 8 s.dsm.basicSet.state
  | .voSet => .num 16 s.dsm.basicSet.voSet
  | .ioSet => .num 16 s.dsm.basicSet.ioSet
  | .ovpSet => .num 16 s.dsm.basicSet.ovpSet
  | .ocpSet => .num 16 s.dsm.basicSet.ocpSet
  | .result => .result s.result

/-- What the registers of BasicInfo, and RESULT, hold after a basic-info reply with this payload. -/
def basicInfoReads (p : List Byte) : List (Register × RegValue) :=
  [ (.vin, .num 16 (field p 0)), (.vout, .num 16 (field p 2)), (.iout, .num 16 (field p 4)),
    (.voMax, .num 16 (field p 6)), (.temp1, .num 16 (field p 8)), (.temp2, .num 16 (field p 10)),
    (.auxV, .num 16 (field p 12)), (.outMode, .num 8 (byteAt p 14)), (.workSt, .num 8 (byteAt p 15)),
    (.result, .result { kind := .updated, op := 0x30#8 }) ]

end Sys2Proof.Claims

open Sys2Proof Sys2Proof.Machine Sys2Proof.Claims

/-! ## Encoding -/

/-- Every well-formed instruction is what its own packet decodes to, every operand at every value. The frames are
30_encoding.md sections 1 and 4, the selectors its section 6; the byte form of the commands' operands and what a frame
packet stands for are the model's choice (log entries 1, 7, 9). -/
def Obligations.DecodeOfEncodeIsTheInstruction : Prop :=
  ∀ i : Instr, WellFormed i = true → decode (encode i) = .ok i

/-- Words written out from the spec's bytes decode to the instructions they stand for (95_test_vectors.md V-GS-1,
V-ENC-2, V-ENC-9, V-DEC-20, V-BS-2, V-SI-1; the GEN_SET operand bytes are the model's form, log entry 1). -/
def Obligations.WordsOfTheSpecDecode : Prop :=
  decode (.command 0#2 [0x31#8, 0x32#8]) = .ok (.crc16 [0x31#8, 0x32#8]) ∧
  decode (.command 2#2 [1#8, 0x88#8, 0x13#8, 0xE8#8, 0x03#8, 0x24#8, 0x77#8, 0xBA#8, 0x13#8])
    = .ok (.genSet true 5000#16 1000#16 30500#16 5050#16) ∧
  decode (.frame [0xFB#8, 0x30#8, 0x00#8, 0x00#8, 0x31#8, 0x0F#8]) = .ok .reqBasicinfo ∧
  decode (.frame [0xFB#8, 0x35#8, 0x00#8, 0x0A#8, 0x20#8, 0x01#8, 0x88#8, 0x13#8, 0xE8#8, 0x03#8, 0x24#8, 0x77#8,
    0xBA#8, 0x13#8, 0xC1#8, 0x85#8]) = .ok (.reqBasicsetModify 0x20#8 1#8 5000#16 1000#16 30500#16 5050#16) ∧
  decode (.frame [0xFA#8, 0x50#8, 0x00#8, 0x03#8, 0x01#8, 0x02#8, 0x03#8, 0x5D#8, 0xBA#8])
    = .ok (.rspScanout ⟨0#8, [1#8, 2#8, 3#8], 0xBA5D#16, []⟩) ∧
  decode (.frame [0xFA#8, 0x35#8, 0x00#8, 0x01#8, 0x01#8, 0x33#8, 0x88#8])
    = .ok (.rspBasicsetAck ⟨0#8, [1#8], 0x8833#16, []⟩) ∧
  decode (.frame [0xFA#8, 0x40#8, 0x00#8, 0x06#8, 0x04#8, 0x1A#8, 0x04#8, 0x20#8, 0x03#8, 0x03#8, 0x1A#8, 0x6A#8])
    = .ok (.rspSysteminfo ⟨0#8, [0x04#8, 0x1A#8, 0x04#8, 0x20#8, 0x03#8, 0x03#8], 0x6A1A#16, []⟩)

/-- The request rows and the exact-length reply rows are mutually exclusive, as 30_encoding.md section 4 says of the
latter: no header word fits two of them. -/
def Obligations.ExactRowsAreMutuallyExclusive : Prop :=
  (requestRows.map (fun r => (r.value, r.mask)) ++ (replyRows.take 5).map (fun r => (r.value, r.mask))).Pairwise
    (fun a b => ∀ h : Header, ¬ (h &&& a.2 = a.1 ∧ h &&& b.2 = b.1))

/-- Whatever the decoder accepts runs: no packet that becomes an instruction makes the codec stop (30_encoding.md
section 5: no encoding makes the codec hang). -/
def Obligations.AcceptedPacketsRun : Prop :=
  ∀ (p : Packet) (i : Instr) (s : State), decode p = .ok i → ∃ t, exec i s = .next t

/-- Every value of the 2-bit selector is a command (92_eei_decisions.md D2, the spec's own choice). -/
def Obligations.EverySelectorIsACommand : Prop :=
  ∀ sel : BitVec 2, ∃ operand i, decode (.command sel operand) = .ok i ∧
    (sel = 0#2 → ∃ d, i = .crc16 d) ∧ (sel = 1#2 → ∃ op p, i = .encode op p) ∧
    (sel = 2#2 → ∃ en v c ovp ocp, i = .genSet en v c ovp ocp) ∧ (sel = 3#2 → ∃ rx, i = .decode rx)

/-! ## The step -/

/-- When the host's next move is a packet that decodes to a well-formed instruction, the step is that instruction,
run on the state without the move. -/
def Obligations.StepRunsTheDecodedInstruction : Prop :=
  ∀ (s : State) (p : Packet) (rest : List HostMove) (i : Instr),
    TakesMoves s → s.moves = .issue p :: rest → decode p = .ok i → WellFormed i = true →
      step s = exec i { s with moves := rest }

/-- The machine stops in two ways only: it refuses a packet that is no instruction, and it faults when the transport's
read never returns (93_implementation_defined.md U8). -/
def Obligations.StepStopsOnlyWhereNamed : Prop :=
  ∀ s : State,
    (∀ f, step s = .fault f → ∃ rest, s.moves = .act .readHangs :: rest) ∧
    (∀ why, step s = .refused why →
      ∃ p rest e, s.moves = .issue p :: rest ∧ decode p = .error e ∧ why = .badPacket e)

/-- With no move of the host's left the codec stands idle (the model's choice, log entry 4). -/
def Obligations.NoMoveNoChange : Prop :=
  ∀ s : State, TakesMoves s → s.moves = [] → step s = .next s

/-! ## Checksum -/

/-- CRC16 returns the checksum, said in the table-driven form that 40_crc.md section 1 derives from the bit-by-bit one,
and writes no other state; three table entries are as printed there. -/
def Obligations.Crc16ReturnsTheTableDrivenChecksum : Prop :=
  (∀ (d : List Byte) (s : State), exec (.crc16 d) s = .next { s with out := .crc (tableCrc d) }) ∧
  tableEntry 1#8 = 0xC0C1#16 ∧ tableEntry 128#8 = 0xA001#16 ∧ tableEntry 255#8 = 0x4040#16

/-- CRC16 follows 40_crc.md R130 byte by byte: the empty sequence gives 0xFFFF, one more byte is one more turn of the
outer loop, the constant is 0x8005 reversed end for end, a zero byte is not transparent and leading zero bytes change
the result; the command hands the value back and writes nothing else. -/
def Obligations.Crc16FollowsTheByteLoop : Prop :=
  crc16 [] = 0xFFFF#16 ∧ (∀ (d : List Byte) (b : Byte), crc16 (d ++ [b]) = byteTurn (crc16 d) b) ∧
  (∀ i < 16, (0xA001#16 : Word).getLsbD i = (0x8005#16 : Word).getLsbD (15 - i)) ∧
  crc16 [0#8] = 0x40BF#16 ∧ (∀ d : List Byte, crc16 (0#8 :: d) ≠ crc16 d) ∧
  crc16 [0xFB#8, 0x10#8, 0x00#8, 0x00#8] = 0xC530#16 ∧
  ∀ (d : List Byte) (s : State), exec (.crc16 d) s = .next { s with out := .crc (crc16 d) }

/-- The laws 40_crc.md section 2 draws from the loop: continuation, the self-check and its converse (the residue test
and the comparison of the trailing bytes accept the same sequences), and the order of the trailing bytes. -/
def Obligations.ResidueTestIsTheTrailingByteTest : Prop :=
  (∀ a b : List Byte, crc16 (a ++ b) = b.foldl byteTurn (crc16 a)) ∧
  (∀ b : List Byte, crc16 (b ++ [lo8 (crc16 b), hi8 (crc16 b)]) = 0#16) ∧
  (∀ f : List Byte, 2 ≤ f.length →
    (crc16 f = 0#16 ↔ f.drop (f.length - 2)
      = [lo8 (crc16 (f.take (f.length - 2))), hi8 (crc16 (f.take (f.length - 2)))])) ∧
  crc16 [0xFA#8, 0x35#8, 0x00#8, 0x01#8, 0x01#8, 0x88#8, 0x33#8] = 0x8332#16

/-- Any single inverted bit of a checksum-valid sequence, its two checksum bytes included, makes it invalid over the
same range; within DECODE the range moves with byte 3, so a flip there can escape (40_crc.md section 2). Where DECODE then leaves
PHASE is 92_eei_decisions.md D14, the spec's own choice, for any buffer (log entry 26); the view is 42_frame_parse.md
R176. -/
def Obligations.SingleBitFlipIsDetectedOverAFixedRange : Prop :=
  (∀ (f : List Byte) (k j : Nat), crc16 f = 0#16 → k < f.length → j < 8 → crc16 (flipBit f k j) ≠ 0#16) ∧
  ∃ rx : List Byte, Intact rx ∧ ∀ s : State,
    exec (.decode (flipBit rx 3 1)) s = .next (accepts s s.dsm { op := 0x35#8, len := 1#8, payload := [1#8] })

/-! ## Builder -/

/-- ENCODE, 41_frame_build.md: for every operation code and every payload of 0 to 255 bytes the frame is header,
payload and checksum low byte first, and nothing else changes. -/
def Obligations.EncodeBuildsTheFrame : Prop :=
  ∀ (op : Byte) (pay : List Byte) (s : State), pay.length ≤ 255 → BuildsFrame op pay s (exec (.encode op pay) s)

/-- A payload longer than 255 bytes is refused at the boundary and gets no result, as an operand of ENCODE and of the
request rows that carry a payload (92_eei_decisions.md D16, the spec's own choice). -/
def Obligations.OverlongPayloadIsRefused : Prop :=
  ∀ (op : Byte) (pay : List Byte) (s : State), 255 < pay.length →
    exec (.encode op pay) s = .refused .payloadTooLong ∧
    exec (.reqNone pay) s = .refused .payloadTooLong ∧
    exec (.reqScanout pay) s = .refused .payloadTooLong ∧
    exec (.reqSerialout pay) s = .refused .payloadTooLong ∧
    decode (.command 1#2 (op :: pay)) = .error .payloadTooLong

/-- GEN_SET, 41_frame_build.md R154: ten bytes, 0x20, the enable byte, then the four operands, each low byte first; no
other state changes, the BasicSet record included. -/
def Obligations.GenSetBuildsTheSettingsPayload : Prop :=
  ∀ (en : Bool) (v i ovp ocp : Word) (s : State), ∃ p : List Byte,
    exec (.genSet en v i ovp ocp) s = .next { s with out := .payload p } ∧
    p.length = 10 ∧ byteAt p 0 = 0x20#8 ∧ (byteAt p 1).toNat = en.toNat ∧
    (byteAt p 2).toNat + 256 * (byteAt p 3).toNat = v.toNat ∧
    (byteAt p 4).toNat + 256 * (byteAt p 5).toNat = i.toNat ∧
    (byteAt p 6).toNat + 256 * (byteAt p 7).toNat = ovp.toNat ∧
    (byteAt p 8).toNat + 256 * (byteAt p 9).toNat = ocp.toNat

/-- The three information requests are these bytes (41_frame_build.md section on the request pseudo-operations; that
two of them carry no payload is 92_eei_decisions.md D22, the spec's own choice). -/
def Obligations.InformationRequestsAreTheseBytes : Prop :=
  ∀ s : State,
    exec .reqDeviceinfo s = .next { s with out := .frame [0xFB#8, 0x10#8, 0x00#8, 0x00#8, 0x30#8, 0xC5#8] } ∧
    exec .reqBasicinfo s = .next { s with out := .frame [0xFB#8, 0x30#8, 0x00#8, 0x00#8, 0x31#8, 0x0F#8] } ∧
    exec .reqSysteminfo s = .next { s with out := .frame [0xFB#8, 0x40#8, 0x00#8, 0x00#8, 0x30#8, 0xD4#8] }

/-- The request for the current settings is ENCODE of the one byte 0x80. With another byte the term of this row builds
its frame all the same: that is 30_encoding.md section 5 (e) (R111) as the model takes it (log entry 7), not
41_frame_build.md R158. -/
def Obligations.SettingsQueryIsEncodeOfOneByte : Prop :=
  ∀ (mode : Byte) (s : State),
    BuildsFrame 0x35#8 [mode] s (exec (.reqBasicsetActivate mode) s) ∧
    exec (.reqBasicsetActivate 0x80#8) s
      = .next { s with out := .frame [0xFB#8, 0x35#8, 0x00#8, 0x01#8, 0x80#8, 0xCE#8, 0x28#8] }

/-- SET is GEN_SET followed by ENCODE of its result under 0x35: a 16-byte frame (41_frame_build.md). -/
def Obligations.SettingsRequestIsGenSetThenEncode : Prop :=
  ∀ (en : Bool) (v i ovp ocp : Word) (s : State), ∃ (p : List Byte) (t : State),
    exec (.genSet en v i ovp ocp) s = .next { s with out := .payload p } ∧
    p.length = 10 ∧
    exec (.encode 0x35#8 p) s = .next t ∧
    exec (.reqBasicsetModify 0x20#8 (if en then 1#8 else 0#8) v i ovp ocp) s = .next t ∧
    BuildsFrame 0x35#8 p s (.next t)

/-- With any mode and enable byte the term of the settings row is the frame of its ten payload bytes: ENCODE does not
look inside the payload (30_encoding.md section 5 (e), as the model takes it, log entry 7; no packet decodes to the row
with other bytes than its own). -/
def Obligations.SettingsRequestIsBuiltForEveryModeByte : Prop :=
  ∀ (mode en : Byte) (v i ovp ocp : Word) (s : State), ∃ p : List Byte,
    p.take 2 = [mode, en] ∧ p.length = 10 ∧ field p 2 = v ∧ field p 4 = i ∧ field p 6 = ovp ∧ field p 8 = ocp ∧
    BuildsFrame 0x35#8 p s (exec (.reqBasicsetModify mode en v i ovp ocp) s)

/-- The three operation codes without a payload layout: the frame is built as for any code, and with no payload it is
the printed one. -/
def Obligations.UnlaidRequestsAreBuiltLikeAnyOther : Prop :=
  ∀ s : State,
    (∀ pay : List Byte, pay.length ≤ 255 →
      BuildsFrame 0x00#8 pay s (exec (.reqNone pay) s) ∧
      BuildsFrame 0x50#8 pay s (exec (.reqScanout pay) s) ∧
      BuildsFrame 0x55#8 pay s (exec (.reqSerialout pay) s)) ∧
    exec (.reqNone []) s = .next { s with out := .frame [0xFB#8, 0x00#8, 0x00#8, 0x00#8, 0x31#8, 0x00#8] } ∧
    exec (.reqScanout []) s = .next { s with out := .frame [0xFB#8, 0x50#8, 0x00#8, 0x00#8, 0x31#8, 0x11#8] } ∧
    exec (.reqSerialout []) s = .next { s with out := .frame [0xFB#8, 0x55#8, 0x00#8, 0x00#8, 0x21#8, 0x10#8] }

/-- Frame of CRC16, ENCODE, GEN_SET and the eight request rows: no record, RESULT, PHASE or host move changes; only
what is handed back does (20_memory.md section 4, 10_state.md section 2). -/
def Obligations.BuildersLeaveTheCodecAlone : Prop :=
  ∀ (i : Instr) (s t : State), receives i = false → exec i s = .next t →
    t.dsm = s.dsm ∧ t.result = s.result ∧ t.phase = s.phase ∧ t.moves = s.moves

/-- What the host may hand to the transport's write as a built frame is exactly what ENCODE hands back (10_state.md
section 5; that it is recognised by its content is the model's choice, log entry 20). -/
def Obligations.BuiltFramesAreTheResultsOfEncode : Prop :=
  ∀ (tx : List Byte) (s : State), builtByEncode tx = true ↔
    ∃ (op : Byte) (pay : List Byte), pay.length ≤ 255 ∧ exec (.encode op pay) s = .next { s with out := .frame tx }

/-! ## Parser -/

/-- DECODE ends with ShortBuffer when the buffer is empty, has a cut header, or ends before the frame its header
announces; no record changes (92_eei_decisions.md D4, the spec's own choice). -/
def Obligations.BufferThatEndsEarlyIsShort : Prop :=
  ∀ (rx : List Byte) (s : State),
    (rx = [] ∨ (byteAt rx 0 = 0xFA#8 ∧ (rx.length < 4 ∨ rx.length < 6 + lengthByte rx))) →
      exec (.decode rx) s = .next (rejects s { kind := .shortBuffer, op := 0#8 } none)

/-- DECODE of a non-empty buffer whose byte 0 is not 0xFA ends with Ignored, whatever follows, before every length
test. -/
def Obligations.OtherMarkerIsIgnored : Prop :=
  ∀ (m : Byte) (rest : List Byte) (s : State), m ≠ 0xFA#8 →
    Reports s s.dsm { kind := .ignored, op := 0#8 } none (exec (.decode (m :: rest)) s)

/-- DECODE of a whole frame from the device whose checksum over its extent is not 0 ends with CrcError; no record
changes and byte 1 is not reported. One inverted bit of an intact frame, byte 0 and byte 3 aside, is such a frame; in
byte 0 it makes the frame Ignored. -/
def Obligations.ChecksumMismatchIsCrcError : Prop :=
  (∀ (rx : List Byte) (s : State), byteAt rx 0 = 0xFA#8 → 6 + lengthByte rx ≤ rx.length →
    crc16 (rx.take (6 + lengthByte rx)) ≠ 0#16 →
      Reports s s.dsm { kind := .crcError, op := 0#8 } none (exec (.decode rx) s)) ∧
  ∀ (rx : List Byte) (k j : Nat) (s : State), Intact rx → k < 6 + lengthByte rx → j < 8 →
    (k ≠ 0 → k ≠ 3 →
      Reports s s.dsm { kind := .crcError, op := 0#8 } none (exec (.decode (flipBit rx k j)) s)) ∧
    (k = 0 → Reports s s.dsm { kind := .ignored, op := 0#8 } none (exec (.decode (flipBit rx k j)) s))

/-- DECODE ends, and in exactly the kind whose condition holds; the conditions are those of 60_exceptions.md sections 1
and 3, and RESULT holds what is returned (the length policy and ShortBuffer are 92_eei_decisions.md D7 and D4, the
spec's own choices). -/
def Obligations.DecodeReportsTheFirstKindThatApplies : Prop :=
  ∀ (rx : List Byte) (s : State), ∃ (t : State) (v : Option View),
    exec (.decode rx) s = .next t ∧ t.out = .decoded t.result v ∧
    (t.result.kind = .shortBuffer ↔
      rx = [] ∨ (byteAt rx 0 = 0xFA#8 ∧ (rx.length < 4 ∨ rx.length < 6 + lengthByte rx))) ∧
    (t.result.kind = .ignored ↔ rx ≠ [] ∧ byteAt rx 0 ≠ 0xFA#8) ∧
    (t.result.kind = .crcError ↔
      byteAt rx 0 = 0xFA#8 ∧ 6 + lengthByte rx ≤ rx.length ∧ crc16 (rx.take (6 + lengthByte rx)) ≠ 0#16) ∧
    (t.result.kind = .unrecognized ↔ Intact rx ∧ byteAt rx 1 ∉ [0x10#8, 0x30#8, 0x35#8, 0x40#8]) ∧
    (t.result.kind = .protocolViolation ↔ Intact rx ∧
      ((byteAt rx 1 = 0x10#8 ∧ lengthByte rx ≠ 38) ∨ (byteAt rx 1 = 0x30#8 ∧ lengthByte rx ≠ 16) ∨
       (byteAt rx 1 = 0x40#8 ∧ lengthByte rx ≠ 6) ∨
       (byteAt rx 1 = 0x35#8 ∧ lengthByte rx ≠ 10 ∧ ¬ (lengthByte rx = 1 ∧ byteAt rx 4 = 1#8)))) ∧
    (t.result.kind = .decodeError ↔ Intact rx ∧ byteAt rx 1 = 0x10#8 ∧ lengthByte rx = 38 ∧
      utf8Wellformed (devtypeText (payloadOf rx)) = false) ∧
    (t.result.kind = .updated ↔ Intact rx ∧
      ((byteAt rx 1 = 0x10#8 ∧ lengthByte rx = 38 ∧ utf8Wellformed (devtypeText (payloadOf rx)) = true) ∨
       (byteAt rx 1 = 0x30#8 ∧ lengthByte rx = 16) ∨ (byteAt rx 1 = 0x40#8 ∧ lengthByte rx = 6) ∨
       (byteAt rx 1 = 0x35#8 ∧ (lengthByte rx = 10 ∨ (lengthByte rx = 1 ∧ byteAt rx 4 = 1#8))))) ∧
    t.result.op = (if t.result.kind = .shortBuffer ∨ t.result.kind = .ignored ∨ t.result.kind = .crcError then 0#8
      else byteAt rx 1)

/-- The round trip of the source: a frame built with the marker forced to device-to-host is parsed back to its
operation code, length and payload and is never Ignored, CrcError or ShortBuffer; a frame as ENCODE builds it is
Ignored. That PHASE then goes from AwaitingReply to Rejected, although nobody read that buffer, is 92_eei_decisions.md D14
taken for any buffer, which is the model's choice (log entry 26). -/
def Obligations.ParserRecoversWhatTheBuilderBuilt : Prop :=
  ∀ (op : Byte) (pay : List Byte) (s : State), pay.length ≤ 255 →
    (∃ t, exec (.decode (frameOf 0xFA#8 op pay)) s = .next t ∧
      t.out = .decoded t.result (some { op := op, len := BitVec.ofNat 8 pay.length, payload := pay }) ∧
      t.result.kind ∈ [ResultKind.updated, .protocolViolation, .decodeError, .unrecognized]) ∧
    ∃ tx, exec (.encode op pay) s = .next { s with out := .frame tx } ∧
      exec (.decode tx) s = .next (rejects s { kind := .ignored, op := 0#8 } none)

/-- Bytes behind the frame play no part: DECODE of a frame with anything behind it is DECODE of the frame
(92_eei_decisions.md D23, the spec's own choice). -/
def Obligations.BytesBehindTheFramePlayNoPart : Prop :=
  ∀ (f tail : List Byte) (s : State), 4 ≤ f.length → f.length = 6 + lengthByte f →
    exec (.decode (f ++ tail)) s = exec (.decode f) s

/-- The reserved byte is covered by the checksum and not otherwise looked at: two intact frames that differ in it (and
so in their checksums) have the same outcome (92_eei_decisions.md D23, the spec's own choice). -/
def Obligations.ReservedByteIsNotLookedAt : Prop :=
  ∀ (op n a b c0 c1 d0 d1 : Byte) (pay : List Byte) (s : State), pay.length = n.toNat →
    crc16 ([0xFA#8, op, a, n] ++ pay ++ [c0, c1]) = 0#16 → crc16 ([0xFA#8, op, b, n] ++ pay ++ [d0, d1]) = 0#16 →
      exec (.decode ([0xFA#8, op, a, n] ++ pay ++ [c0, c1])) s
        = exec (.decode ([0xFA#8, op, b, n] ++ pay ++ [d0, d1])) s

/-- DECODE is idempotent: a second DECODE of the same buffer returns the same kind and leaves the records as the first
left them. -/
def Obligations.DecodeIsIdempotent : Prop :=
  ∀ (rx : List Byte) (s t u : State), exec (.decode rx) s = .next t → exec (.decode rx) t = .next u →
    u.dsm = t.dsm ∧ u.result = t.result ∧ u.out = t.out

/-- What a DECODE returns is a function of the buffer alone, and the records after it of the buffer and the records
before it: in particular no earlier error, and no phase, has a say. -/
def Obligations.DecodeDependsOnTheBufferAlone : Prop :=
  ∀ (rx : List Byte) (s s' t t' : State), exec (.decode rx) s = .next t → exec (.decode rx) s' = .next t' →
    t.result = t'.result ∧ t.out = t'.out ∧ (s.dsm = s'.dsm → t.dsm = t'.dsm)

/-- Errors are precise: a DECODE, by the command or by a reply row, that ends in any kind other than Updated has left
every record as it was (92_eei_decisions.md D10, the spec's own choice beyond CrcError). -/
def Obligations.ErrorsLeaveEveryRecord : Prop :=
  ∀ (i : Instr) (s t : State), receives i = true → exec i s = .next t → t.result.kind ≠ .updated → t.dsm = s.dsm

/-- Frame of every DECODE: the record that RESULT.OP names may change, and only when the kind is Updated; the other
records and the host's moves do not change, and PHASE moves only from AwaitingReply, to Decoded or Rejected by the
kind (92_eei_decisions.md D14, the spec's own choice; that this holds for any buffer is log entry 26, that PHASE stands
still elsewhere log entry 6). -/
def Obligations.DecodeTouchesAtMostTheNamedRecord : Prop :=
  ∀ (i : Instr) (s t : State), receives i = true → exec i s = .next t →
    (t.dsm.deviceInfo ≠ s.dsm.deviceInfo → t.result = { kind := .updated, op := 0x10#8 }) ∧
    (t.dsm.basicInfo ≠ s.dsm.basicInfo → t.result = { kind := .updated, op := 0x30#8 }) ∧
    (t.dsm.basicSet ≠ s.dsm.basicSet → t.result = { kind := .updated, op := 0x35#8 }) ∧
    (t.dsm.systemInfo ≠ s.dsm.systemInfo → t.result = { kind := .updated, op := 0x40#8 }) ∧
    t.moves = s.moves ∧
    t.phase = (if s.phase = .awaitingReply then (if t.result.kind = .updated then .decoded else .rejected)
      else s.phase)

/-! ## Payload decoder -/

/-- Each reply row is DECODE of the buffer the row stands for: the rows of 30_encoding.md section 4 and the steps of
42_frame_parse.md agree on every well-formed reply, its checksum right or wrong, with anything behind it. -/
def Obligations.ReplyRowsAreDecodeOfTheirBuffer : Prop :=
  ∀ (i : Instr) (op : Byte) (r : Reply) (s : State), WellFormed i = true → replyOf i = some (op, r) →
    exec i s = exec (.decode (replyFrameBytes op r ++ r.trailing)) s

/-- A reply row whose checksum fails is not trusted: it ends with CrcError and no record changes. 30_encoding.md
section 4 (R110) gives such a frame no row; that a row run with it ends as DECODE of its buffer does is the model's
choice (log entry 9). -/
def Obligations.UnvouchedReplyIsCrcError : Prop :=
  ∀ (i : Instr) (op : Byte) (r : Reply) (s : State), replyOf i = some (op, r) → ¬ Vouched op r →
    exec i s = .next (rejects s { kind := .crcError, op := 0#8 } none)

/-- `X_BASICINFO`: a 16-byte payload replaces all nine fields, any bit pattern accepted; any other length is a
protocol violation and writes nothing. PHASE goes from AwaitingReply to Decoded after Updated (92_eei_decisions.md
D14) for any buffer, which is the model's choice (log entry 26). -/
def Obligations.BasicInfoReplyReplacesItsRecord : Prop :=
  ∀ (r : Reply) (s : State), Vouched 0x30#8 r →
    (r.payload.length = 16 → exec (.rspBasicinfo r) s = .next (accepts s
      { s.dsm with basicInfo :=
        { vin := field r.payload 0, vout := field r.payload 2, iout := field r.payload 4, voMax := field r.payload 6,
          temp1 := field r.payload 8, temp2 := field r.payload 10, auxV := field r.payload 12,
          outMode := byteAt r.payload 14, workSt := byteAt r.payload 15 } } (viewOf 0x30#8 r))) ∧
    (r.payload.length ≠ 16 → exec (.rspBadlenBasicinfo r) s
      = .next (rejects s { kind := .protocolViolation, op := 0x30#8 } (some (viewOf 0x30#8 r))))

/-- `X_DEVICEINFO`: a 38-byte payload with well-formed text replaces all nine fields; ill-formed text is a DecodeError
and writes nothing, the numeric fields included; any other length is a protocol violation, tested first. The offsets
are 92_eei_decisions.md D5, the spec's own choice. PHASE goes from AwaitingReply to Decoded after Updated
(92_eei_decisions.md D14) for any buffer, which is the model's choice (log entry 26). -/
def Obligations.DeviceInfoReplyReplacesItsRecord : Prop :=
  ∀ (r : Reply) (s : State), Vouched 0x10#8 r →
    (r.payload.length = 38 → utf8Wellformed (devtypeText r.payload) = true →
      exec (.rspDeviceinfo r) s = .next (accepts s
        { s.dsm with deviceInfo :=
          { devType := devtypeText r.payload, hwVer := field r.payload 15, appVer := field r.payload 17,
            bootVer := field r.payload 19, runArea := field r.payload 21, sn := (r.payload.drop 23).take 11,
            year := field r.payload 34, month := byteAt r.payload 36, day := byteAt r.payload 37 } }
        (viewOf 0x10#8 r))) ∧
    (r.payload.length = 38 → utf8Wellformed (devtypeText r.payload) = false →
      exec (.rspDeviceinfo r) s
        = .next (rejects s { kind := .decodeError, op := 0x10#8 } (some (viewOf 0x10#8 r)))) ∧
    (r.payload.length ≠ 38 → exec (.rspBadlenDeviceinfo r) s
      = .next (rejects s { kind := .protocolViolation, op := 0x10#8 } (some (viewOf 0x10#8 r))))

/-- `X_SYSTEMINFO`: a 6-byte payload replaces all four fields; any other length is a protocol violation. Widths and
offsets are 92_eei_decisions.md D5 and D6, the spec's own choices. PHASE goes from AwaitingReply to Decoded after
Updated (92_eei_decisions.md D14) for any buffer, which is the model's choice (log entry 26). -/
def Obligations.SystemInfoReplyReplacesItsRecord : Prop :=
  ∀ (r : Reply) (s : State), Vouched 0x40#8 r →
    (r.payload.length = 6 → exec (.rspSysteminfo r) s = .next (accepts s
      { s.dsm with systemInfo :=
        { blkLev := byteAt r.payload 0, opp := field r.payload 1, otp := field r.payload 3,
          volLev := byteAt r.payload 5 } } (viewOf 0x40#8 r))) ∧
    (r.payload.length ≠ 6 → exec (.rspBadlenSysteminfo r) s
      = .next (rejects s { kind := .protocolViolation, op := 0x40#8 } (some (viewOf 0x40#8 r))))

/-- `X_BASICSET`, settings path: a 10-byte payload replaces all six fields, bytes 0 and 1 stored whole
(92_eei_decisions.md D6 and D12, the spec's own choices). PHASE goes from AwaitingReply to Decoded after Updated
(92_eei_decisions.md D14) for any buffer, which is the model's choice (log entry 26). -/
def Obligations.BasicSetReplyReplacesItsRecord : Prop :=
  ∀ (r : Reply) (s : State), Vouched 0x35#8 r → r.payload.length = 10 →
    exec (.rspBasicset r) s = .next (accepts s
      { s.dsm with basicSet :=
        { index := byteAt r.payload 0, state := byteAt r.payload 1, voSet := field r.payload 2,
          ioSet := field r.payload 4, ovpSet := field r.payload 6, ocpSet := field r.payload 8 } } (viewOf 0x35#8 r))

/-- `X_BASICSET`, acknowledgement path: the byte 1 gives Updated with no field changed, any other byte a protocol
violation. -/
def Obligations.AcknowledgementUpdatesNoField : Prop :=
  ∀ (r : Reply) (b : Byte) (s : State), Vouched 0x35#8 r → r.payload = [b] →
    (b = 1#8 → Reports s s.dsm { kind := .updated, op := 0x35#8 } (some (viewOf 0x35#8 r))
      (exec (.rspBasicsetAck r) s)) ∧
    (b ≠ 1#8 → Reports s s.dsm { kind := .protocolViolation, op := 0x35#8 } (some (viewOf 0x35#8 r))
      (exec (.rspBasicsetAck r) s))

/-- `X_BASICSET`, every other length, none included, is a protocol violation and writes nothing. -/
def Obligations.OtherBasicSetLengthsViolate : Prop :=
  ∀ (r : Reply) (s : State), Vouched 0x35#8 r → r.payload.length ≠ 1 → r.payload.length ≠ 10 →
    exec (.rspBadlenBasicset r) s
      = .next (rejects s { kind := .protocolViolation, op := 0x35#8 } (some (viewOf 0x35#8 r)))

/-- An intact frame whose operation code has no extractor ends with Unrecognized and that code, whatever its length and
payload, and the payload stays available in the view: by the four rows, and by DECODE (92_eei_decisions.md D9, the
spec's own choice). -/
def Obligations.CodesWithoutExtractorAreUnrecognized : Prop :=
  (∀ (r : Reply) (s : State),
    (Vouched 0x00#8 r → exec (.rspNone r) s
      = .next (rejects s { kind := .unrecognized, op := 0x00#8 } (some (viewOf 0x00#8 r)))) ∧
    (Vouched 0x50#8 r → exec (.rspScanout r) s
      = .next (rejects s { kind := .unrecognized, op := 0x50#8 } (some (viewOf 0x50#8 r)))) ∧
    (Vouched 0x55#8 r → exec (.rspSerialout r) s
      = .next (rejects s { kind := .unrecognized, op := 0x55#8 } (some (viewOf 0x55#8 r)))) ∧
    (∀ op : Byte, op ∉ [0x00#8, 0x10#8, 0x30#8, 0x35#8, 0x40#8, 0x50#8, 0x55#8] → Vouched op r →
      exec (.rspUnassigned op r) s = .next (rejects s { kind := .unrecognized, op := op } (some (viewOf op r))))) ∧
  ∀ (rx : List Byte) (s : State), Intact rx → byteAt rx 1 ∉ [0x10#8, 0x30#8, 0x35#8, 0x40#8] →
    exec (.decode rx) s = .next (rejects s { kind := .unrecognized, op := byteAt rx 1 }
      (some { op := byteAt rx 1, len := byteAt rx 3, payload := payloadOf rx }))

/-- The device-type text ends before the first zero byte of its 15-byte field; with none there it is all 15 bytes, and
the byte behind the field is not looked at. -/
def Obligations.TextEndsAtTheFirstZeroOfItsField : Prop :=
  ∀ p : List Byte,
    (∀ a b : List Byte, p.take 15 = a ++ 0#8 :: b → 0#8 ∉ a → devtypeText p = a) ∧
    (0#8 ∉ p.take 15 → devtypeText p = p.take 15)

/-- Text is well-formed exactly when it is a concatenation of sequences that each fit a row of the table of
43_payload_decode.md (supplied there from general knowledge, 93_implementation_defined.md G1; log entry 18). -/
def Obligations.WellFormedTextIsRowsOfTheTable : Prop :=
  ∀ t : List Byte, utf8Wellformed t = true ↔
    ∃ chunks : List (List Byte), t = chunks.flatten ∧ ∀ c ∈ chunks, ∃ row ∈ utf8Rows, FitsRow row c

/-! ## State, reset, host -/

/-- After reset every field of every record is zero, SN is eleven zero bytes, and DEV_TYPE is the empty text, which is
what fifteen zero bytes decode to. -/
def Obligations.ResetZeroesEveryRecord : Prop :=
  State.reset.dsm =
    { basicInfo := ⟨0#16, 0#16, 0#16, 0#16, 0#16, 0#16, 0#16, 0#8, 0#8⟩
      deviceInfo := ⟨[], 0#16, 0#16, 0#16, 0#16, [0#8, 0#8, 0#8, 0#8, 0#8, 0#8, 0#8, 0#8, 0#8, 0#8, 0#8], 0#16, 0#8, 0#8⟩
      systemInfo := ⟨0#8, 0#16, 0#16, 0#8⟩
      basicSet := ⟨0#8, 0#8, 0#16, 0#16, 0#16, 0#16⟩ } ∧
  ∀ rest : List Byte, devtypeText (List.replicate 15 0#8 ++ rest) = State.reset.dsm.deviceInfo.devType

/-- RESULT is (None, 0) and PHASE is Idle after reset (92_eei_decisions.md D13, the spec's own choice), and when the
host creates a new instance every field is at its reset value, with the host's further moves ahead. -/
def Obligations.NewInstanceStartsFromReset : Prop :=
  State.reset.result = { kind := .none, op := 0#8 } ∧ State.reset.phase = .idle ∧
  ∀ (s : State) (rest : List HostMove), TakesMoves s → s.moves = .act .reset :: rest →
    step s = .next { State.reset with moves := rest }

/-- The invariant holds after reset. -/
def Obligations.InvariantHoldsAfterReset : Prop := Safety.Inv State.reset

/-- Every step keeps the invariant: DEV_TYPE is at most 15 bytes of well-formed UTF-8 without a zero byte, SN is eleven
bytes, and RESULT is a pair a DECODE can leave. -/
def Obligations.EveryStepKeepsTheInvariant : Prop :=
  ∀ s t : State, Safety.Inv s → step s = .next t → Safety.Inv t

/-- The records and RESULT have one writer: a step that changes any of them runs a DECODE, or the host has created a
new instance. -/
def Obligations.OnlyDecodeOrResetWritesRecordsAndResult : Prop :=
  ∀ s t : State, step s = .next t → (t.dsm ≠ s.dsm ∨ t.result ≠ s.result) →
    (∃ p rest i, s.moves = .issue p :: rest ∧ decode p = .ok i ∧ receives i = true) ∨
    (∃ rest, s.moves = .act .reset :: rest)

/-- PHASE moves along the source's cycle only, on the trigger of each edge: a send moves it only from Idle and only with
a frame that ENCODE built, a read of the transport only from FrameSent, a DECODE only from AwaitingReply, and from
Decoded and Rejected the next step leads to Idle; every other move leaves it, and a new instance starts it at Idle. The
triggers are 92_eei_decisions.md D14, the spec's own choice, and so is Idle after reset (D13, log entry 15). The rest is
the model's choice: that the return to Idle is a step (log entry 5), that PHASE stands still out of order (6), which sent
bytes count as a frame that ENCODE built (20), that any buffer's DECODE counts (26), and that a failed read leaves PHASE
in every phase, with no read issued before it (28; 60_exceptions.md R230 speaks of AwaitingReply alone). -/
def Obligations.PhaseMovesAlongTheCycleOnly : Prop :=
  ∀ s t : State, step s = .next t →
    (t.phase = s.phase ∨ CycleEdge s.phase t.phase ∨ (t.phase = .idle ∧ ∃ rest, s.moves = .act .reset :: rest)) ∧
    (¬ TakesMoves s → t.phase = .idle) ∧
    (TakesMoves s →
      (∀ tx rest, s.moves = .act (.send tx) :: rest →
        t.phase = if s.phase = .idle ∧ builtByEncode tx = true then .frameSent else s.phase) ∧
      (∀ rest, s.moves = .act .recv :: rest →
        t.phase = if s.phase = .frameSent then .awaitingReply else s.phase) ∧
      (∀ p i rest, s.moves = .issue p :: rest → decode p = .ok i →
        t.phase = if receives i = true ∧ s.phase = .awaitingReply then
          (if t.result.kind = .updated then .decoded else .rejected) else s.phase) ∧
      (∀ x rest, s.moves = .act (.read x) :: rest → t.phase = s.phase) ∧
      (∀ rest, s.moves = .act .readFails :: rest → t.phase = s.phase) ∧
      (∀ rest, s.moves = .act .reset :: rest → t.phase = .idle))

/-- A whole cycle of a host that keeps the order: send a built frame, read, DECODE, and PHASE passes Idle, FrameSent,
AwaitingReply, then Decoded when the kind is Updated and Rejected otherwise, then Idle again with nothing else changed
(92_eei_decisions.md D14, the spec's own choice; the last step is log entry 5, which sent bytes count as built is log
entry 20, and that the buffer decoded need not be shown to be the one read is log entry 26). -/
def Obligations.OneCyclePassesThroughItsPhases : Prop :=
  ∀ (s : State) (tx : List Byte) (p : Packet) (i : Instr) (rest : List HostMove),
    s.phase = .idle → s.moves = .act (.send tx) :: .act .recv :: .issue p :: rest →
    builtByEncode tx = true → decode p = .ok i → receives i = true →
      ∃ a b c : State, step s = .next a ∧ a.phase = .frameSent ∧ step a = .next b ∧ b.phase = .awaitingReply ∧
        b.dsm = s.dsm ∧ b.result = s.result ∧ step b = .next c ∧
        c.phase = (if c.result.kind = .updated then Phase.decoded else .rejected) ∧
        step c = .next { c with phase := .idle } ∧ c.moves = rest

/-- A move that keeps the host's order (70_reset_and_hazards.md section 4) never meets a phase it is not meant for:
the send leads to FrameSent, the read to AwaitingReply, and a DECODE, by the command or by a frame packet whose marker
is not 0xFB, to Decoded or Rejected. What the order asks of the buffer decoded, of an abandoned cycle, of a failed or
repeated read and of builds within a cycle is the model's choice (log entries 26 to 30), and so are which sent bytes count as
built (log entry 20) and that such a frame packet is a DECODE (log entry 9). -/
def Obligations.OrderlyMovesAdvanceThePhase : Prop :=
  ∀ (s t : State) (m : HostMove) (rest : List HostMove), TakesMoves s → s.moves = m :: rest →
    Safety.HostKeepsOrder s m → step s = .next t →
      (∀ tx, m = .act (.send tx) → t.phase = .frameSent) ∧
      (m = .act .recv → t.phase = .awaitingReply) ∧
      (∀ rx, m = .issue (.command 3#2 rx) → t.phase = .decoded ∨ t.phase = .rejected) ∧
      (∀ bytes, byteAt bytes 0 ≠ 0xFB#8 → m = .issue (.frame bytes) → t.phase = .decoded ∨ t.phase = .rejected)

/-- PHASE is ghost state: no command's outcome depends on it (92_eei_decisions.md D14, the spec's own choice). -/
def Obligations.NoCommandReadsThePhase : Prop :=
  ∀ (i : Instr) (s t : State) (p : Phase), exec i s = .next t →
    ∃ u, exec i { s with phase := p } = .next u ∧ u.dsm = t.dsm ∧ u.result = t.result ∧ u.out = t.out ∧
      u.moves = t.moves

/-- A read of the transport that fails is no result of the codec's: RESULT, the records and PHASE are left as they were
and the host is told apart from CrcError; one that never returns leaves no next step (92_eei_decisions.md D20;
log entry 14). That this holds in every phase, with no read issued before it, is the model's choice (log entry 28). -/
def Obligations.TransportFailureLeavesTheCodecAlone : Prop :=
  ∀ (s : State) (rest : List HostMove), TakesMoves s →
    (s.moves = .act .readFails :: rest → step s = .next { s with out := .transportError, moves := rest }) ∧
    (s.moves = .act .readHangs :: rest → step s = .fault .transportNeverReturns)

/-- A read of the host's hands back the named field, whichever of the 29 registers it names, and changes nothing else
(10_state.md section 2, 70_reset_and_hazards.md section 3). After any DECODE it hands back what that DECODE left in the
field, at once or, where PHASE is Decoded or Rejected, after the step to Idle (log entry 5); after a basic-info reply the
nine fields of its record are those of the payload and RESULT is Updated (20_memory.md section 4). -/
def Obligations.HostReadReturnsWhatDecodeWrote : Prop :=
  (∀ (s : State) (x : Register) (rest : List HostMove), TakesMoves s → s.moves = .act (.read x) :: rest →
    step s = .next { s with out := .reg (namedField s x), moves := rest }) ∧
  (∀ (i : Instr) (s t : State) (x : Register) (rest : List HostMove), receives i = true → exec i s = .next t →
    t.moves = .act (.read x) :: rest →
      (TakesMoves t → step t = .next { t with out := .reg (namedField t x), moves := rest }) ∧
      (¬ TakesMoves t → step t = .next { t with phase := .idle } ∧
        step { t with phase := .idle }
          = .next { t with phase := .idle, out := .reg (namedField t x), moves := rest })) ∧
  ∀ (r : Reply) (s t : State), Vouched 0x30#8 r → r.payload.length = 16 → exec (.rspBasicinfo r) s = .next t →
    ∀ e ∈ basicInfoReads r.payload, namedField t e.1 = e.2

/-! ## Rows and their payload conditions -/

/-- Whatever the decoder accepts meets the conditions of its row, the payload's included (30_encoding.md sections 1, 3
and 4): the instruction is well-formed. What a packet stands for is the model's choice (log entries 1, 7, 8, 9). -/
def Obligations.AcceptedPacketsAreWellFormed : Prop :=
  ∀ (p : Packet) (i : Instr), decode p = .ok i → WellFormed i = true

/-- A basic-set request frame is read as its row only with the payload bytes that 30_encoding.md section 3 asks for: the
one byte 0x80, or ten bytes of which byte 0 is 0x20 and byte 1 is 0 or 1, the four words following low byte first. With
any other byte there no row applies and it is ENCODE of that payload. Three points are the model's choice: that a 0xFB
frame packet is read as its row whatever its two checksum bytes are, and that a byte 1 other than 0 or 1 defeats the row,
where the payload column of section 4 (R109) asks for ten bytes with byte 0 = 0x20 only (both log entry 7), and that a
frame of no row is ENCODE (log entry 8). -/
def Obligations.RequestRowNeedsItsPayloadCondition : Prop :=
  (∀ b c0 c1 : Byte, decode (.frame [0xFB#8, 0x35#8, 0x00#8, 0x01#8, b, c0, c1])
    = .ok (if b = 0x80#8 then .reqBasicsetActivate b else .encode 0x35#8 [b])) ∧
  ∀ (p : List Byte) (c0 c1 : Byte), p.length = 10 →
    decode (.frame ([0xFB#8, 0x35#8, 0x00#8, 0x0A#8] ++ p ++ [c0, c1]))
      = .ok (if byteAt p 0 = 0x20#8 ∧ (byteAt p 1 = 0#8 ∨ byteAt p 1 = 1#8) then
          .reqBasicsetModify (byteAt p 0) (byteAt p 1) (field p 2) (field p 4) (field p 6) (field p 8)
        else .encode 0x35#8 p)
end

