-- ==== Sys2Proof/Laws/Bytes.lean ====
section
/-! SUPPORT. The byte order (20_memory.md R65), byte sequences and the text field (30_encoding.md R100). -/

namespace Sys2Proof

@[simp] theorem lo8_le16 (lo hi : Byte) : lo8 (le16 lo hi) = lo := by
  unfold lo8 le16
  ext i h
  simp only [BitVec.getElem_extractLsb', BitVec.getLsbD_append]
  simp [h]

@[simp] theorem hi8_le16 (lo hi : Byte) : hi8 (le16 lo hi) = hi := by
  unfold hi8 le16
  ext i h
  simp only [BitVec.getElem_extractLsb', BitVec.getLsbD_append]
  simp [BitVec.getLsbD_eq_getElem h]

@[simp] theorem le16_lo8_hi8 (v : Word) : le16 (lo8 v) (hi8 v) = v := by
  unfold lo8 hi8 le16
  ext i h
  simp only [BitVec.getElem_append, BitVec.getElem_extractLsb']
  by_cases h8 : i < 8
  · simp [h8, BitVec.getLsbD_eq_getElem h]
  · have : 8 + (i - 8) = i := by omega
    simp [h8, this, BitVec.getLsbD_eq_getElem h]

theorem le16_toNat (lo hi : Byte) : (le16 lo hi).toNat = lo.toNat + 256 * hi.toNat := by
  have h : lo.toNat < 2 ^ 8 := lo.isLt
  simp only [le16, BitVec.toNat_append]
  rw [Nat.shiftLeft_eq, Nat.mul_comm, ← Nat.two_pow_add_eq_or_of_lt h]
  omega

theorem leNatAt_one (b : List Byte) (o : Nat) : leNatAt b o 1 = (byteAt b o).toNat := by simp [leNatAt]

theorem leNatAt_two (b : List Byte) (o : Nat) : leNatAt b o 2 = (le16At b o).toNat := by
  simp [leNatAt, le16At, le16_toNat]

/-- A field of one byte is that byte. -/
@[simp] theorem fieldAt_one (b : List Byte) (o : Nat) : fieldAt b ⟨o, 1⟩ = byteAt b o := by
  simp only [fieldAt, leNatAt_one]
  exact BitVec.ofNat_toNat 8 (byteAt b o) |>.trans (BitVec.setWidth_eq _)

/-- A field of two bytes is the little-endian word there. -/
@[simp] theorem fieldAt_two (b : List Byte) (o : Nat) : fieldAt b ⟨o, 2⟩ = le16At b o := by
  simp only [fieldAt, leNatAt_two]
  exact BitVec.ofNat_toNat 16 (le16At b o) |>.trans (BitVec.setWidth_eq _)

/-- The default length policy is equality, 43_payload_decode.md R190 (a). -/
@[simp] theorem lengthFits_iff (p : List Byte) (n : Nat) : lengthFits p n = true ↔ p.length = n := by
  simp [lengthFits, Params.lenPolicy]

@[simp] theorem lengthFits_eq_false_iff (p : List Byte) (n : Nat) : lengthFits p n = false ↔ p.length ≠ n := by
  rw [← Bool.not_eq_true, lengthFits_iff]

/-- A word is its two bytes, the low one first. -/
theorem lo8_add_hi8 (v : Word) : (lo8 v).toNat + 256 * (hi8 v).toNat = v.toNat := by
  rw [← le16_toNat, le16_lo8_hi8]

@[simp] theorem leBytes_length (v : Word) : (leBytes v).length = 2 := rfl

theorem slice_eq (b : List Byte) (a n : Nat) : slice b a n = (b.drop a).take n := rfl

theorem slice_length_le (b : List Byte) (a n : Nat) : (slice b a n).length ≤ n := by
  simp [slice]

theorem slice_length (b : List Byte) (a n : Nat) (h : a + n ≤ b.length) : (slice b a n).length = n := by
  simp [slice]; omega

/-- Reading a byte that lies before an appended tail does not see the tail. -/
theorem byteAt_append_left (a b : List Byte) (o : Nat) (h : o < a.length) : byteAt (a ++ b) o = byteAt a o := by
  simp [byteAt, List.getElem?_append_left h]

theorem byteAt_append_right (a b : List Byte) (o : Nat) (h : a.length ≤ o) :
    byteAt (a ++ b) o = byteAt b (o - a.length) := by
  simp [byteAt, List.getElem?_append_right h]

theorem upToZero_length_le (b : List Byte) : (upToZero b).length ≤ b.length := by
  induction b with
  | nil => simp [upToZero]
  | cons x t ih => by_cases h : x = 0#8 <;> simp [upToZero, h]; omega

theorem zero_not_mem_upToZero (b : List Byte) : 0#8 ∉ upToZero b := by
  induction b with
  | nil => simp [upToZero]
  | cons x t ih =>
    by_cases h : x = 0#8
    · simp [upToZero, h]
    · simp [upToZero, h, ih, Ne.symm h]

theorem upToZero_append_zero (a b : List Byte) (h : 0#8 ∉ a) : upToZero (a ++ 0#8 :: b) = a := by
  induction a with
  | nil => simp [upToZero]
  | cons x t ih =>
    simp only [List.mem_cons, not_or] at h
    simp [upToZero, Ne.symm h.1, ih h.2]

theorem upToZero_of_no_zero (a : List Byte) (h : 0#8 ∉ a) : upToZero a = a := by
  induction a with
  | nil => rfl
  | cons x t ih =>
    simp only [List.mem_cons, not_or] at h
    simp [upToZero, Ne.symm h.1, ih h.2]

theorem devtypeText_length_le (p : List Byte) : (devtypeText p).length ≤ 15 :=
  (upToZero_length_le _).trans (slice_length_le _ _ _)

theorem zero_not_mem_devtypeText (p : List Byte) : 0#8 ∉ devtypeText p := zero_not_mem_upToZero _

end Sys2Proof
end

