-- ==== Sys2Proof/Laws/Checksum.lean ====
section
/-! SUPPORT. The checksum unit at its default parameters (40_crc.md): the loop in plain form, that a bit turn is linear
and loses nothing, and what eight turns do to the two halves of the register. -/

namespace Sys2Proof

/-- The generator at the default parameters, 40_crc.md R131. -/
theorem crcGen_default : crcGen Params.crcCfg = 0xA001#16 := by decide

/-- One bit turn at the default parameters, 40_crc.md R130. -/
def turn (c : Word) : Word := crcTurn true 0xA001#16 c

theorem turn_eq (c : Word) : turn c = if c.getLsbD 0 then (c >>> 1) ^^^ 0xA001#16 else c >>> 1 := rfl

/-- Eight bit turns at the default parameters. -/
def turns8 (c : Word) : Word := turn (turn (turn (turn (turn (turn (turn (turn c)))))))

theorem crcByte_default (c : Word) (b : Byte) : crcByte true 0xA001#16 c b = turns8 (c ^^^ b.setWidth 16) := rfl

/-- `crc16` as the plain loop of 40_crc.md R130. -/
theorem crc16_eq_foldl (d : List Byte) :
    crc16 d = d.foldl (fun c b => turns8 (c ^^^ b.setWidth 16)) 0xFFFF#16 := by
  unfold crc16 crcWith
  rw [crcGen_default]
  simp only [Params.crcCfg, BitVec.xor_zero]
  rfl

theorem crc16_nil : crc16 [] = 0xFFFF#16 := crc16_eq_foldl []

theorem crc16_append (a b : List Byte) :
    crc16 (a ++ b) = b.foldl (fun c x => turns8 (c ^^^ x.setWidth 16)) (crc16 a) := by
  simp [crc16_eq_foldl]

theorem turn_xor (a b : Word) : turn (a ^^^ b) = turn a ^^^ turn b := by
  have cancel : ∀ x y g : Word, (x ^^^ g) ^^^ (y ^^^ g) = x ^^^ y := fun x y g => by
    rw [show (x ^^^ g) ^^^ (y ^^^ g) = (x ^^^ y) ^^^ (g ^^^ g) by ac_rfl, BitVec.xor_self, BitVec.xor_zero]
  simp only [turn_eq, BitVec.getLsbD_xor, BitVec.ushiftRight_xor_distrib]
  cases a.getLsbD 0 <;> cases b.getLsbD 0
  · simp
  · simp [BitVec.xor_assoc]
  · simp only [Bool.xor_false, if_true, Bool.false_eq_true, if_false]; ac_rfl
  · simp [cancel]

theorem turns8_xor (a b : Word) : turns8 (a ^^^ b) = turns8 a ^^^ turns8 b := by
  simp only [turns8, turn_xor]

/-- The generator has its top bit set and the shifted register has not, so a turn that gives zero started from zero. -/
theorem turn_eq_zero (c : Word) (h : turn c = 0#16) : c = 0#16 := by
  rw [turn_eq] at h
  by_cases h0 : c.getLsbD 0
  · rw [if_pos h0] at h
    have := congrArg (fun x => x.getLsbD 15) h
    simp at this
  · rw [if_neg h0] at h
    apply BitVec.eq_of_getLsbD_eq
    intro i hi
    rcases Nat.eq_zero_or_pos i with rfl | hp
    · simpa using h0
    · have := congrArg (fun x => x.getLsbD (i - 1)) h
      have e : 1 + (i - 1) = i := by omega
      simpa [e] using this

theorem turns8_eq_zero (c : Word) (h : turns8 c = 0#16) : c = 0#16 := by
  unfold turns8 at h
  iterate 8 replace h := turn_eq_zero _ h
  exact h

/-- A turn of a register whose bit 0 is clear is a shift. -/
theorem turn_of_even (c : Word) (h : c.getLsbD 0 = false) : turn c = c >>> 1 := by
  rw [turn_eq, if_neg (by rw [h]; decide)]

/-- Eight turns shift a register whose low byte is zero right by eight: the reason for the residue, 40_crc.md R136. -/
theorem turns8_of_low_zero (c : Word) (h : ∀ i < 8, c.getLsbD i = false) : turns8 c = c >>> 8 := by
  have e : ∀ k < 8, turn (c >>> k) = c >>> (k + 1) := fun k hk => by
    rw [turn_of_even _ (by simpa using h k hk), BitVec.shiftRight_add]
  have s0 : turn c = c >>> 1 := e 0 (by omega)
  simp only [turns8, s0, e 1 (by omega), e 2 (by omega), e 3 (by omega), e 4 (by omega), e 5 (by omega),
    e 6 (by omega), e 7 (by omega)]

/-- A register is its low byte and its high byte in place. -/
theorem word_split (c : Word) : c = (c.setWidth 8).setWidth 16 ^^^ ((c >>> 8) <<< 8) := by
  ext i hi
  simp only [BitVec.getElem_xor, BitVec.getElem_setWidth, BitVec.getElem_shiftLeft, BitVec.getLsbD_setWidth]
  by_cases h8 : i < 8
  · simp [h8, BitVec.getLsbD_eq_getElem hi]
  · have e : 8 + (i - 8) = i := by omega
    simp [h8, e, BitVec.getLsbD_eq_getElem hi]

/-- Eight turns of a register: the high byte passes through shifted, the low byte picks the table entry, 40_crc.md
R132. -/
theorem turns8_split (c : Word) : turns8 c = (c >>> 8) ^^^ turns8 ((c.setWidth 8).setWidth 16) := by
  have hz : turns8 ((c >>> 8) <<< 8) = c >>> 8 := by
    rw [turns8_of_low_zero _ (fun i hi => by simp [hi])]
    ext i hi
    simp only [BitVec.getElem_ushiftRight, BitVec.getLsbD_shiftLeft]
    by_cases h8 : 8 + i < 16
    · simp [h8]
    · simp [h8, BitVec.getLsbD_of_ge c (8 + i) (by omega)]
  conv_lhs => rw [word_split c]
  rw [turns8_xor, hz, BitVec.xor_comm]

end Sys2Proof
end

