-- ==== Sys2Proof/Laws/Decode.lean ====
section
/-! SUPPORT. The rows over the header word (30_encoding.md R98): when a header fits a row, byte by byte, which row is
found first, and what a frame packet that is accepted stands for. -/

namespace Sys2Proof

theorem append_eq_append {w v : Nat} {a c : BitVec w} {b d : BitVec v} : a ++ b = c ++ d ↔ a = c ∧ b = d := by
  refine ⟨fun h => ⟨?_, ?_⟩, fun ⟨h1, h2⟩ => by rw [h1, h2]⟩
  · rw [← BitVec.extractLsb'_append_eq_left (a := a) (b := b), h, BitVec.extractLsb'_append_eq_left]
  · rw [← BitVec.extractLsb'_append_eq_right (a := a) (b := b), h, BitVec.extractLsb'_append_eq_right]

/-- A header under a mask made of whole bytes. -/
theorem headerWord_and (m op rsv len m' op' rsv' len' : Byte) :
    headerWord m op rsv len &&& headerWord m' op' rsv' len'
      = headerWord (m &&& m') (op &&& op') (rsv &&& rsv') (len &&& len') := by
  refine (BitVec.and_append (w := 24) (v := 8)).trans ?_
  refine congrArg (fun x : BitVec 24 => (x ++ (len &&& len') : BitVec (24 + 8))) ?_
  refine (BitVec.and_append (w := 16) (v := 8)).trans ?_
  exact congrArg (fun x : BitVec 16 => (x ++ (rsv &&& rsv') : BitVec (16 + 8))) (BitVec.and_append (w := 8) (v := 8))

theorem headerWord_inj (m op rsv len m' op' rsv' len' : Byte) :
    headerWord m op rsv len = headerWord m' op' rsv' len' ↔ m = m' ∧ op = op' ∧ rsv = rsv' ∧ len = len' := by
  refine (append_eq_append (w := 24) (v := 8)).trans ?_
  refine (and_congr_left' (append_eq_append (w := 16) (v := 8))).trans ?_
  refine (and_congr_left' (and_congr_left' (append_eq_append (w := 8) (v := 8)))).trans ?_
  simp only [and_assoc]

theorem and_ones (b : Byte) : b &&& 0xFF#8 = b := BitVec.and_allOnes

theorem mask_exact : (0xFFFF00FF#32 : Header) = headerWord 0xFF#8 0xFF#8 0x00#8 0xFF#8 := by decide
theorem mask_op : (0xFFFF0000#32 : Header) = headerWord 0xFF#8 0xFF#8 0x00#8 0x00#8 := by decide
theorem mask_marker : (0xFF000000#32 : Header) = headerWord 0xFF#8 0x00#8 0x00#8 0x00#8 := by decide
theorem mask_full : (0xFFFFFFFF#32 : Header) = headerWord 0xFF#8 0xFF#8 0xFF#8 0xFF#8 := by decide
theorem mask_anyLen : (0xFFFFFF00#32 : Header) = headerWord 0xFF#8 0xFF#8 0xFF#8 0x00#8 := by decide

@[simp] theorem openRequestRow_make (op : Byte) (mk : List Byte → Instr) : (openRequestRow op mk).make = mk := rfl
@[simp] theorem exactRequestRow_make (op len : Byte) (c : List Byte → Bool) (mk : List Byte → Instr) :
    (exactRequestRow op len c mk).make = mk := rfl
@[simp] theorem exactReplyRow_make (op : Byte) (n : Nat) (mk : Byte → Reply → Instr) :
    (exactReplyRow op n mk).make = mk := rfl
@[simp] theorem opReplyRow_make (op : Byte) (mk : Byte → Reply → Instr) : (opReplyRow op mk).make = mk := rfl
@[simp] theorem anyReplyRow_make (mk : Byte → Reply → Instr) : (anyReplyRow mk).make = mk := rfl

/-- A row for one operation code and one length fits exactly those headers, whatever the reserved byte. -/
theorem rowFits_exact (op rsv len o : Byte) (n : Nat) (p : List Byte) (mk : Byte → Reply → Instr) :
    rowFits (headerWord Params.markD2H op rsv len) p (exactReplyRow o n mk) = true ↔
      op = o ∧ len = BitVec.ofNat 8 n := by
  simp [rowFits, exactReplyRow, mask_exact, headerWord_and, headerWord_inj, and_ones, Params.markD2H]

/-- A row for one operation code fits every length. -/
theorem rowFits_op (op rsv len o : Byte) (p : List Byte) (mk : Byte → Reply → Instr) :
    rowFits (headerWord Params.markD2H op rsv len) p (opReplyRow o mk) = true ↔ op = o := by
  simp [rowFits, opReplyRow, mask_op, headerWord_and, headerWord_inj, and_ones, Params.markD2H]

/-- The last row fits every reply header. -/
theorem rowFits_last (op rsv len : Byte) (p : List Byte) (mk : Byte → Reply → Instr) :
    rowFits (headerWord Params.markD2H op rsv len) p (anyReplyRow mk) = true := by
  simp [rowFits, anyReplyRow, mask_marker, headerWord_and, and_ones]

/-- A request row for one length fits exactly its own header with a payload that meets its condition. -/
theorem rowFits_full (op rsv len o n : Byte) (p : List Byte) (c : List Byte → Bool) (mk : List Byte → Instr) :
    rowFits (headerWord Params.markH2D op rsv len) p (exactRequestRow o n c mk) = true ↔
      (op = o ∧ rsv = 0#8 ∧ len = n) ∧ c p = true := by
  simp [rowFits, exactRequestRow, mask_full, headerWord_and, headerWord_inj, and_ones, Params.markH2D]

/-- A request row for any length fits its operation code with the reserved byte 0. -/
theorem rowFits_anyLen (op rsv len o : Byte) (p : List Byte) (mk : List Byte → Instr) :
    rowFits (headerWord Params.markH2D op rsv len) p (openRequestRow o mk) = true ↔ op = o ∧ rsv = 0#8 := by
  simp [rowFits, openRequestRow, mask_anyLen, headerWord_and, headerWord_inj, and_ones, Params.markH2D]

/-- A payload fits a frame when the length byte can count it, 30_encoding.md R94. -/
theorem fitsFrame_iff (pay : List Byte) : fitsFrame pay = true ↔ pay.length ≤ 255 :=
  ⟨of_decide_eq_true, decide_eq_true⟩

/-- The reply row of a header, as a choice on its operation code and length, 30_encoding.md R110. -/
def replyInstr (op len : Byte) (r : Reply) : Instr :=
  if op = 0x10#8 then (if len = 38#8 then .rspDeviceinfo r else .rspBadlenDeviceinfo r)
  else if op = 0x30#8 then (if len = 16#8 then .rspBasicinfo r else .rspBadlenBasicinfo r)
  else if op = 0x35#8 then
    (if len = 10#8 then .rspBasicset r else if len = 1#8 then .rspBasicsetAck r else .rspBadlenBasicset r)
  else if op = 0x40#8 then (if len = 6#8 then .rspSysteminfo r else .rspBadlenSysteminfo r)
  else if op = 0x00#8 then .rspNone r
  else if op = 0x50#8 then .rspScanout r
  else if op = 0x55#8 then .rspSerialout r
  else .rspUnassigned op r

/-- The conditions on the first bytes of a settings payload, written out, 30_encoding.md R107. -/
theorem settingsBytes_iff (mode en : Byte) :
    settingsBytes mode en = true ↔ mode = 0x20#8 ∧ (en = 0#8 ∨ en = 1#8) := by
  simp [settingsBytes, Params.modeModify]

/-- The condition on the byte of a settings query, written out, 30_encoding.md R108. -/
theorem queryByte_iff (mode : Byte) : queryByte mode = true ↔ mode = 0x80#8 := by
  simp [queryByte, Params.modeActivate]

/-- The request row of a header with the reserved byte 0 and a payload, or ENCODE where there is none,
30_encoding.md R109. -/
def requestInstr (op len : Byte) (p : List Byte) : Instr :=
  if op = 0x00#8 then .reqNone p
  else if op = 0x10#8 ∧ len = 0#8 then .reqDeviceinfo
  else if op = 0x30#8 ∧ len = 0#8 then .reqBasicinfo
  else if op = 0x35#8 ∧ len = 10#8 ∧ settingsBytes (byteAt p 0) (byteAt p 1) = true then
    .reqBasicsetModify (byteAt p 0) (byteAt p 1) (le16At p 2) (le16At p 4) (le16At p 6) (le16At p 8)
  else if op = 0x35#8 ∧ len = 1#8 ∧ queryByte (byteAt p 0) = true then .reqBasicsetActivate (byteAt p 0)
  else if op = 0x40#8 ∧ len = 0#8 then .reqSysteminfo
  else if op = 0x50#8 then .reqScanout p
  else if op = 0x55#8 then .reqSerialout p
  else .encode op p

/-- The reply row a header fits first. -/
theorem find_replyRow (op rsv len : Byte) (r : Reply) :
    (replyRows.find? (rowFits (headerWord Params.markD2H op rsv len) r.payload)).map (fun row => row.make op r) =
    some (replyInstr op len r) := by
  have e : ∀ (o : Byte) (n : Nat) (mk : Byte → Reply → Instr),
      rowFits (headerWord Params.markD2H op rsv len) r.payload (exactReplyRow o n mk)
        = (decide (op = o) && decide (len = BitVec.ofNat 8 n)) := fun o n mk => by
    rw [Bool.eq_iff_iff, rowFits_exact]; simp
  have f : ∀ (o : Byte) (mk : Byte → Reply → Instr),
      rowFits (headerWord Params.markD2H op rsv len) r.payload (opReplyRow o mk) = decide (op = o) := fun o mk => by
    rw [Bool.eq_iff_iff, rowFits_op]; simp
  simp only [replyInstr, replyRows, List.find?, e, f, rowFits_last, Params.opDeviceinfo, Params.opBasicinfo, Params.opBasicset,
    Params.opSysteminfo, Params.opNone, Params.opScanout, Params.opSerialout, Params.deviceInfo, Params.basicInfo]
  by_cases h1 : op = 0x10#8
  · subst h1; by_cases hl : len = 38#8 <;> simp [hl]
  by_cases h2 : op = 0x30#8
  · subst h2; by_cases hl : len = 16#8 <;> simp [hl]
  by_cases h3 : op = 0x35#8
  · subst h3
    by_cases hl : len = 10#8
    · simp [hl]
    · by_cases hl1 : len = 1#8 <;> simp [hl, hl1]
  by_cases h4 : op = 0x40#8
  · subst h4; by_cases hl : len = 6#8 <;> simp [hl]
  by_cases h5 : op = 0x00#8
  · subst h5; simp
  by_cases h6 : op = 0x50#8
  · subst h6; simp
  by_cases h7 : op = 0x55#8
  · subst h7; simp
  simp [h1, h2, h3, h4, h5, h6, h7]

/-- The request row a header fits, or ENCODE where none does. -/
theorem find_requestRow (op len : Byte) (p : List Byte) :
    (match requestRows.find? (rowFits (headerWord Params.markH2D op 0#8 len) p) with
      | some row => row.make p
      | none => .encode op p) = requestInstr op len p := by
  have e : ∀ (o n : Byte) (c : List Byte → Bool) (mk : List Byte → Instr),
      rowFits (headerWord Params.markH2D op 0#8 len) p (exactRequestRow o n c mk)
        = decide (op = o ∧ len = n ∧ c p = true) := fun o n c mk => by
    rw [Bool.eq_iff_iff, rowFits_full]; simp [and_assoc]
  have f : ∀ (o : Byte) (mk : List Byte → Instr),
      rowFits (headerWord Params.markH2D op 0#8 len) p (openRequestRow o mk) = decide (op = o) := fun o mk => by
    rw [Bool.eq_iff_iff, rowFits_anyLen]; simp
  simp only [requestInstr, requestRows, List.find?, e, f, Params.opDeviceinfo, Params.opBasicinfo, Params.opBasicset,
    Params.opSysteminfo, Params.opNone, Params.opScanout, Params.opSerialout]
  by_cases h1 : op = 0x00#8
  · simp [h1]
  by_cases h2 : op = 0x10#8 ∧ len = 0#8
  · simp [h2.1, h2.2]
  by_cases h3 : op = 0x30#8 ∧ len = 0#8
  · simp [h3.1, h3.2]
  by_cases h4 : op = 0x35#8 ∧ len = 10#8 ∧ settingsBytes (byteAt p 0) (byteAt p 1) = true
  · simp [h4.1, h4.2]
  by_cases h5 : op = 0x35#8 ∧ len = 1#8 ∧ queryByte (byteAt p 0) = true
  · simp [h5.1, h5.2]
  by_cases h6 : op = 0x40#8 ∧ len = 0#8
  · simp [h6.1, h6.2]
  by_cases h7 : op = 0x50#8
  · simp [h7]
  by_cases h8 : op = 0x55#8
  · simp [h8]
  simp [h1, h2, h3, h4, h5, h6, h7, h8]

/-- A buffer that holds a whole frame from the device decodes to its row. -/
theorem decodeFrame_reply (op rsv len : Byte) (rest : List Byte) (h : len.toNat + 2 ≤ rest.length) :
    decodeFrame (Params.markD2H :: op :: rsv :: len :: rest) = .ok (replyInstr op len (replyOperands rsv len rest)) := by
  have hf := find_replyRow op rsv len (replyOperands rsv len rest)
  have hm : ¬ Params.markD2H = Params.markH2D := by decide
  simp only [decodeFrame, if_neg hm]
  rw [if_pos (show True ∧ len.toNat + Params.crcLen ≤ rest.length from ⟨trivial, h⟩)]
  cases hr : replyRows.find? (rowFits (headerWord Params.markD2H op rsv len) (replyOperands rsv len rest).payload) with
  | none => rw [hr] at hf; cases hf
  | some row => rw [hr] at hf; simpa using hf

/-- A request frame of exactly its own extent with the reserved byte 0 decodes to its row, or to ENCODE. -/
theorem decodeRequest_ok (op len : Byte) (rest : List Byte) (h : rest.length = len.toNat + 2) :
    decodeRequest op 0#8 len rest = .ok (requestInstr op len (rest.take len.toNat)) := by
  have hf := find_requestRow op len (rest.take len.toNat)
  unfold decodeRequest
  rw [if_neg (show ¬ rest.length ≠ len.toNat + Params.crcLen from fun hn => hn h), if_neg (by simp)]
  dsimp only
  cases hr : requestRows.find? (rowFits (headerWord Params.markH2D op 0#8 len) (rest.take len.toNat)) with
  | none => rw [hr] at hf; simpa using hf
  | some row => rw [hr] at hf; simpa using hf

/-- What an accepted packet is: a command with its operands in range, a row of a request or a reply frame with the
payload its length byte announces, or a buffer for DECODE. -/
theorem decode_ok_cases (p : Packet) (i : Instr) (h : decode p = .ok i) :
    (∃ d, i = .crc16 d) ∨ (∃ op pay, pay.length ≤ 255 ∧ i = .encode op pay) ∨
    (∃ en v c ovp ocp, i = .genSet en v c ovp ocp) ∨ (∃ rx, i = .decode rx) ∨
    (∃ op len pay, pay.length = len.toNat ∧ i = requestInstr op len pay) ∨
    (∃ op len r, r.payload.length = len.toNat ∧ i = replyInstr op len r) := by
  cases p with
  | command sel b =>
    simp only [decode, decodeCommand] at h
    split at h
    · cases h; exact .inl ⟨_, rfl⟩
    split at h
    · unfold decodeEncode at h
      split at h
      · cases h
      · split at h
        · rename_i hf
          cases h; exact .inr (.inl ⟨_, _, of_decide_eq_true hf, rfl⟩)
        · cases h
    split at h
    · unfold decodeGenSet at h
      split at h
      · cases h
      · split at h
        · cases h
        · cases h; exact .inr (.inr (.inl ⟨_, _, _, _, _, rfl⟩))
    · cases h; exact .inr (.inr (.inr (.inl ⟨_, rfl⟩)))
  | frame b =>
    simp only [decode] at h
    unfold decodeFrame at h
    split at h
    · rename_i m op rsv len rest
      split at h
      · by_cases hl : rest.length = len.toNat + 2
        · by_cases hr : rsv = 0#8
          · subst hr
            rw [decodeRequest_ok op len rest hl] at h
            cases h
            exact .inr (.inr (.inr (.inr (.inl ⟨op, len, rest.take len.toNat, by simp; omega, rfl⟩))))
          · unfold decodeRequest at h
            rw [if_neg (show ¬ rest.length ≠ len.toNat + Params.crcLen from fun hn => hn hl), if_pos hr] at h
            cases h
        · unfold decodeRequest at h
          rw [if_pos (show rest.length ≠ len.toNat + Params.crcLen from hl)] at h
          cases h
      · split at h
        · rename_i hm hd
          obtain ⟨rfl, hl⟩ := hd
          have hw := decodeFrame_reply op rsv len rest hl
          simp only [decodeFrame, if_neg hm] at hw
          rw [if_pos ⟨trivial, hl⟩] at hw
          rw [hw] at h
          cases h
          exact .inr (.inr (.inr (.inr (.inr ⟨op, len, _, by
            simp [replyOperands]; have : len.toNat + 2 ≤ rest.length := hl
            omega, rfl⟩))))
        · cases h; exact .inr (.inr (.inr (.inl ⟨_, rfl⟩)))
    · split at h
      · cases h
      · cases h; exact .inr (.inr (.inr (.inl ⟨_, rfl⟩)))
    · cases h; exact .inr (.inr (.inr (.inl ⟨_, rfl⟩)))

end Sys2Proof
end

