-- ==== Sys2Proof/Laws/State.lean ====
section
/-! SUPPORT. One lemma per field per update of the state, all true by rfl, and of the records under an extractor's
update. -/

namespace Sys2Proof.Machine

@[simp] theorem setDsm_dsm (s : State) (d : Dsm) : (s.setDsm d).dsm = d := rfl
@[simp] theorem setDsm_result (s : State) (d : Dsm) : (s.setDsm d).result = s.result := rfl
@[simp] theorem setDsm_phase (s : State) (d : Dsm) : (s.setDsm d).phase = s.phase := rfl
@[simp] theorem setDsm_out (s : State) (d : Dsm) : (s.setDsm d).out = s.out := rfl
@[simp] theorem setDsm_moves (s : State) (d : Dsm) : (s.setDsm d).moves = s.moves := rfl

@[simp] theorem setResult_dsm (s : State) (r : Result) : (s.setResult r).dsm = s.dsm := rfl
@[simp] theorem setResult_result (s : State) (r : Result) : (s.setResult r).result = r := rfl
@[simp] theorem setResult_phase (s : State) (r : Result) : (s.setResult r).phase = s.phase := rfl
@[simp] theorem setResult_out (s : State) (r : Result) : (s.setResult r).out = s.out := rfl
@[simp] theorem setResult_moves (s : State) (r : Result) : (s.setResult r).moves = s.moves := rfl

@[simp] theorem setPhase_dsm (s : State) (p : Phase) : (s.setPhase p).dsm = s.dsm := rfl
@[simp] theorem setPhase_result (s : State) (p : Phase) : (s.setPhase p).result = s.result := rfl
@[simp] theorem setPhase_phase (s : State) (p : Phase) : (s.setPhase p).phase = p := rfl
@[simp] theorem setPhase_out (s : State) (p : Phase) : (s.setPhase p).out = s.out := rfl
@[simp] theorem setPhase_moves (s : State) (p : Phase) : (s.setPhase p).moves = s.moves := rfl

@[simp] theorem setOut_dsm (s : State) (o : Output) : (s.setOut o).dsm = s.dsm := rfl
@[simp] theorem setOut_result (s : State) (o : Output) : (s.setOut o).result = s.result := rfl
@[simp] theorem setOut_phase (s : State) (o : Output) : (s.setOut o).phase = s.phase := rfl
@[simp] theorem setOut_out (s : State) (o : Output) : (s.setOut o).out = o := rfl
@[simp] theorem setOut_moves (s : State) (o : Output) : (s.setOut o).moves = s.moves := rfl

@[simp] theorem setMoves_dsm (s : State) (m : List HostMove) : (s.setMoves m).dsm = s.dsm := rfl
@[simp] theorem setMoves_result (s : State) (m : List HostMove) : (s.setMoves m).result = s.result := rfl
@[simp] theorem setMoves_phase (s : State) (m : List HostMove) : (s.setMoves m).phase = s.phase := rfl
@[simp] theorem setMoves_out (s : State) (m : List HostMove) : (s.setMoves m).out = s.out := rfl
@[simp] theorem setMoves_moves (s : State) (m : List HostMove) : (s.setMoves m).moves = m := rfl

@[simp] theorem apply_basicInfo (d : Dsm) (r : BasicInfo) :
    d.apply (.basicInfo r) = { d with basicInfo := r } := rfl
@[simp] theorem apply_deviceInfo (d : Dsm) (r : DeviceInfo) :
    d.apply (.deviceInfo r) = { d with deviceInfo := r } := rfl
@[simp] theorem apply_systemInfo (d : Dsm) (r : SystemInfo) :
    d.apply (.systemInfo r) = { d with systemInfo := r } := rfl
@[simp] theorem apply_basicSet (d : Dsm) (r : BasicSet) :
    d.apply (.basicSet r) = { d with basicSet := r } := rfl
@[simp] theorem apply_acknowledged (d : Dsm) : d.apply .acknowledged = d := rfl

end Sys2Proof.Machine
end

