-- ==== Sys2Proof/Laws/Ops.lean ====
section
/-! SUPPORT. What the shared operations do, each said once: the end of a DECODE, the extractors, the parser, a reply row
and a built request. -/

namespace Sys2Proof.Machine

open Sys2Proof

/-! ### The end of a DECODE -/

@[simp] theorem conclude_dsm (s : State) (k : ResultKind) (op : Byte) (v : Option View) :
    (s.conclude k op v).dsm = s.dsm := rfl
@[simp] theorem conclude_result (s : State) (k : ResultKind) (op : Byte) (v : Option View) :
    (s.conclude k op v).result = resultOf k op := rfl
@[simp] theorem conclude_phase (s : State) (k : ResultKind) (op : Byte) (v : Option View) :
    (s.conclude k op v).phase = phaseAfter k s.phase := rfl
@[simp] theorem conclude_out (s : State) (k : ResultKind) (op : Byte) (v : Option View) :
    (s.conclude k op v).out = .decoded (resultOf k op) v := rfl
@[simp] theorem conclude_moves (s : State) (k : ResultKind) (op : Byte) (v : Option View) :
    (s.conclude k op v).moves = s.moves := rfl

theorem raise_eq (s : State) (k : ResultKind) (op : Byte) (v : Option View) : s.raise k op v = s.conclude k op v := rfl

/-- The kind a DECODE ends with. -/
def endKind (x : Except ResultKind Update) : ResultKind :=
  match x with
  | .ok _ => .updated
  | .error k => k

/-- What an extractor's answer does to the records. -/
def endDsm (d : Dsm) (x : Except ResultKind Update) : Dsm :=
  match x with
  | .ok u => d.apply u
  | .error _ => d

/-- The end of a DECODE after a good checksum, whatever the extractor answered. -/
theorem concludeReply_eq (s : State) (v : View) (x : Except ResultKind Update) :
    s.concludeReply v x = (s.setDsm (endDsm s.dsm x)).conclude (endKind x) v.op (some v) := by
  cases x <;> rfl

theorem phaseAfter_of_ne (k : ResultKind) (p : Phase) (h : p ≠ .awaitingReply) : phaseAfter k p = p := by
  cases p <;> first | rfl | exact absurd rfl h

theorem phaseAfter_updated (p : Phase) :
    phaseAfter .updated p = if p = .awaitingReply then .decoded else p := by cases p <;> rfl

theorem phaseAfter_error (k : ResultKind) (p : Phase) (h : k ≠ .updated) :
    phaseAfter k p = if p = .awaitingReply then .rejected else p := by
  cases p <;> simp [phaseAfter, h]

/-! ### The extractors -/

/-- An extractor's errors are the two of 60_exceptions.md R224 and R225, and its update is of its own record. -/
theorem xBasicinfo_cases (p : List Byte) :
    (p.length ≠ 16 ∧ xBasicinfo p = .error .protocolViolation) ∨
    (p.length = 16 ∧ ∃ b, xBasicinfo p = .ok (.basicInfo b)) := by
  by_cases h : p.length = 16
  · exact .inr ⟨h, _, if_neg (by simp [Params.basicInfo, h])⟩
  · exact .inl ⟨h, if_pos ((lengthFits_eq_false_iff p 16).2 h)⟩

/-- The fields at the default widths, byte by byte and word by word, 30_encoding.md R104. -/
theorem xSysteminfo_ok (p : List Byte) (h : p.length = 6) : xSysteminfo p = .ok (.systemInfo
    { blkLev := byteAt p 0, opp := le16At p 1, otp := le16At p 3, volLev := byteAt p 5 }) := by
  rw [xSysteminfo, if_neg (by simp [h])]
  simp only [fieldAt_one, fieldAt_two]

theorem xSysteminfo_cases (p : List Byte) :
    (p.length ≠ 6 ∧ xSysteminfo p = .error .protocolViolation) ∨
    (p.length = 6 ∧ ∃ b, xSysteminfo p = .ok (.systemInfo b)) := by
  by_cases h : p.length = 6
  · exact .inr ⟨h, _, xSysteminfo_ok p h⟩
  · exact .inl ⟨h, if_pos ((lengthFits_eq_false_iff p 6).2 h)⟩

theorem xDeviceinfo_cases (p : List Byte) :
    (p.length ≠ 38 ∧ xDeviceinfo p = .error .protocolViolation) ∨
    (p.length = 38 ∧ utf8Wellformed (devtypeText p) = false ∧ xDeviceinfo p = .error .decodeError) ∨
    (p.length = 38 ∧ utf8Wellformed (devtypeText p) = true ∧
      ∃ d, xDeviceinfo p = .ok (.deviceInfo d) ∧ d.devType = devtypeText p ∧ d.sn = slice p 23 11) := by
  by_cases h : p.length = 38
  · have hl : ¬ lengthFits p Params.deviceInfo.len = false := by simp [Params.deviceInfo, h]
    cases ht : utf8Wellformed (devtypeText p)
    · exact .inr (.inl ⟨h, rfl, by unfold xDeviceinfo; rw [if_neg hl, if_pos ht]⟩)
    · refine .inr (.inr ⟨h, rfl, _, by unfold xDeviceinfo; rw [if_neg hl, if_neg (by simp [ht])], rfl, rfl⟩)
  · exact .inl ⟨h, if_pos ((lengthFits_eq_false_iff p 38).2 h)⟩

/-- The settings path at the default widths, 30_encoding.md R105. -/
theorem xBasicset_ok (p : List Byte) (h : p.length = 10) : xBasicset p = .ok (.basicSet
    { index := byteAt p 0, state := byteAt p 1, voSet := le16At p 2, ioSet := le16At p 4, ovpSet := le16At p 6,
      ocpSet := le16At p 8 }) := by
  rw [xBasicset, if_neg (show ¬ p.length = 1 by omega), if_pos ((lengthFits_iff p 10).2 h)]
  simp only [fieldAt_one, fieldAt_two]

theorem xBasicset_cases (p : List Byte) :
    (p.length = 1 ∧ byteAt p 0 = 1#8 ∧ xBasicset p = .ok .acknowledged) ∨
    (p.length = 1 ∧ byteAt p 0 ≠ 1#8 ∧ xBasicset p = .error .protocolViolation) ∨
    (p.length = 10 ∧ ∃ b, xBasicset p = .ok (.basicSet b)) ∨
    (p.length ≠ 1 ∧ p.length ≠ 10 ∧ xBasicset p = .error .protocolViolation) := by
  unfold xBasicset
  by_cases h1 : p.length = 1
  · rw [if_pos (show p.length = Params.basicSet.lenAck from h1)]
    by_cases hb : byteAt p 0 = 1#8
    · exact .inl ⟨h1, hb, if_pos hb⟩
    · exact .inr (.inl ⟨h1, hb, if_neg hb⟩)
  · rw [if_neg (show ¬ p.length = Params.basicSet.lenAck from h1)]
    by_cases h10 : p.length = 10
    · exact .inr (.inr (.inl ⟨h10, _, if_pos ((lengthFits_iff p 10).2 h10)⟩))
    · exact .inr (.inr (.inr ⟨h1, h10, if_neg (fun hf => h10 ((lengthFits_iff p 10).1 hf))⟩))

/-! ### The parser -/

/-- What the parser answers, case by case in its own order, 42_frame_parse.md R170. -/
theorem parse_cases (rx : List Byte) :
    (rx = [] ∧ parse rx = .error .shortBuffer) ∨
    (rx ≠ [] ∧ byteAt rx 0 ≠ 0xFA#8 ∧ parse rx = .error .ignored) ∨
    (rx ≠ [] ∧ byteAt rx 0 = 0xFA#8 ∧ (rx.length < 4 ∨ rx.length < 6 + (byteAt rx 3).toNat) ∧
      parse rx = .error .shortBuffer) ∨
    (byteAt rx 0 = 0xFA#8 ∧ 6 + (byteAt rx 3).toNat ≤ rx.length ∧
      crc16 (rx.take (6 + (byteAt rx 3).toNat)) ≠ 0#16 ∧ parse rx = .error .crcError) ∨
    (byteAt rx 0 = 0xFA#8 ∧ 6 + (byteAt rx 3).toNat ≤ rx.length ∧
      crc16 (rx.take (6 + (byteAt rx 3).toNat)) = 0#16 ∧
      parse rx = .ok { op := byteAt rx 1, len := byteAt rx 3, payload := (rx.drop 4).take (byteAt rx 3).toNat }) := by
  have hlen : Params.hdrLen + (byteAt rx 3).toNat + Params.crcLen = 6 + (byteAt rx 3).toNat := by
    simp [Params.hdrLen, Params.crcLen]; omega
  have hchk : ∀ f : List Byte, checksumValid f = false ↔ crc16 f ≠ 0#16 := fun f => by
    simp [checksumValid, Params.crcCfg]
  unfold parse
  by_cases h0 : rx = []
  · exact .inl ⟨h0, by simp [h0]⟩
  have hl0 : rx.length ≠ 0 := by simpa using h0
  rw [if_neg hl0]
  by_cases hm : byteAt rx 0 = 0xFA#8
  · rw [if_neg (show ¬ byteAt rx 0 ≠ Params.markD2H from fun h => h hm)]
    by_cases h4 : rx.length < 4
    · exact .inr (.inr (.inl ⟨h0, hm, .inl h4, if_pos h4⟩))
    rw [if_neg (show ¬ rx.length < Params.hdrLen from h4)]
    simp only [hlen]
    by_cases h6 : rx.length < 6 + (byteAt rx 3).toNat
    · exact .inr (.inr (.inl ⟨h0, hm, .inr h6, if_pos h6⟩))
    rw [if_neg h6]
    by_cases hc : crc16 (rx.take (6 + (byteAt rx 3).toNat)) = 0#16
    · refine .inr (.inr (.inr (.inr ⟨hm, by omega, hc, ?_⟩)))
      rw [if_neg (by rw [hchk]; simpa [slice] using hc)]
      rfl
    · refine .inr (.inr (.inr (.inl ⟨hm, by omega, hc, ?_⟩)))
      rw [if_pos (by rw [hchk]; simpa [slice] using hc)]
  · exact .inr (.inl ⟨h0, hm, if_pos hm⟩)

/-- The dispatch, 42_frame_parse.md R177. -/
theorem dispatch_cases (v : View) :
    (v.op = 0x10#8 ∧ dispatch v = xDeviceinfo v.payload) ∨ (v.op = 0x30#8 ∧ dispatch v = xBasicinfo v.payload) ∨
    (v.op = 0x35#8 ∧ dispatch v = xBasicset v.payload) ∨ (v.op = 0x40#8 ∧ dispatch v = xSysteminfo v.payload) ∨
    (v.op ∉ [0x10#8, 0x30#8, 0x35#8, 0x40#8] ∧ dispatch v = .error .unrecognized) := by
  unfold dispatch
  by_cases h1 : v.op = 0x10#8
  · exact .inl ⟨h1, if_pos h1⟩
  rw [if_neg (show ¬ v.op = Params.opDeviceinfo from h1)]
  by_cases h2 : v.op = 0x30#8
  · exact .inr (.inl ⟨h2, if_pos h2⟩)
  rw [if_neg (show ¬ v.op = Params.opBasicinfo from h2)]
  by_cases h3 : v.op = 0x35#8
  · exact .inr (.inr (.inl ⟨h3, if_pos h3⟩))
  rw [if_neg (show ¬ v.op = Params.opBasicset from h3)]
  by_cases h4 : v.op = 0x40#8
  · exact .inr (.inr (.inr (.inl ⟨h4, if_pos h4⟩)))
  exact .inr (.inr (.inr (.inr ⟨by simp [h1, h2, h3, h4], if_neg h4⟩)))

/-- What DECODE judges a buffer to be: the kind with the operation code and view RESULT and the host get, and the
records after it. -/
theorem execDecode_eq (rx : List Byte) (s : State) :
    execDecode rx s = .next (match parse rx with
      | .error k => s.conclude k 0#8 none
      | .ok v => (s.setDsm (endDsm s.dsm (dispatch v))).conclude (endKind (dispatch v)) v.op (some v)) := by
  unfold execDecode
  cases parse rx with
  | error k => rfl
  | ok v => simp only [concludeReply_eq]

theorem exec_decode (rx : List Byte) (s : State) : exec (.decode rx) s = execDecode rx s := rfl

/-! ### A reply row -/

/-- A reply row, its checksum right or wrong. -/
theorem checkedReply_eq (op : Byte) (r : Reply) (x : Except ResultKind Update) (s : State) :
    checkedReply op r x s =
      if crc16 (replyFrame op r) = 0#16 then
        (s.setDsm (endDsm s.dsm x)).conclude (endKind x) op
          (some { op := op, len := BitVec.ofNat 8 r.payload.length, payload := r.payload })
      else s.conclude .crcError 0#8 none := by
  unfold checkedReply
  simp only [checksumValid, Params.crcCfg, beq_iff_eq, concludeReply_eq, raise_eq]

/-! ### A built request -/

theorem buildRequest_of_le (op : Byte) (pay : List Byte) (s : State) (h : pay.length ≤ 255) :
    buildRequest op pay s = .next (s.setOut (.frame (frameOf 0xFB#8 op pay))) := if_pos h

theorem buildRequest_of_gt (op : Byte) (pay : List Byte) (s : State) (h : 255 < pay.length) :
    buildRequest op pay s = .refused .payloadTooLong := if_neg (by simpa [Params.maxPayload] using h)

/-- When it answers next, only what is handed back has changed. -/
theorem buildRequest_next (op : Byte) (pay : List Byte) (s t : State) (h : buildRequest op pay s = .next t) :
    pay.length ≤ 255 ∧ t = s.setOut (.frame (frameOf 0xFB#8 op pay)) := by
  by_cases hl : pay.length ≤ 255
  · rw [buildRequest_of_le op pay s hl] at h
    exact ⟨hl, by simpa using h.symm⟩
  · rw [buildRequest_of_gt op pay s (by omega)] at h
    cases h

end Sys2Proof.Machine
end

