-- ==== Sys2Proof/Laws/PerInstr.lean ====
section
/-! SUPPORT. Per instruction: the packet of a well-formed instruction fits the match and mask that
spec/opcode_table.json prints for its row. The numbers stand here a second time, literally, beside the rows that
Decode.lean builds from the parameters. -/

namespace Sys2Proof.Laws.HeaderRow

open Sys2Proof

/-- Match and mask of the instruction's row in spec/opcode_table.json. -/
def tableRow : Instr → Header × Header
  | .crc16 _ => (0x0#32, 0x3#32)
  | .encode _ _ => (0x1#32, 0x3#32)
  | .genSet _ _ _ _ _ => (0x2#32, 0x3#32)
  | .decode _ => (0x3#32, 0x3#32)
  | .reqNone _ => (0xFB000000#32, 0xFFFFFF00#32)
  | .reqDeviceinfo => (0xFB100000#32, 0xFFFFFFFF#32)
  | .reqBasicinfo => (0xFB300000#32, 0xFFFFFFFF#32)
  | .reqBasicsetModify _ _ _ _ _ _ => (0xFB35000A#32, 0xFFFFFFFF#32)
  | .reqBasicsetActivate _ => (0xFB350001#32, 0xFFFFFFFF#32)
  | .reqSysteminfo => (0xFB400000#32, 0xFFFFFFFF#32)
  | .reqScanout _ => (0xFB500000#32, 0xFFFFFF00#32)
  | .reqSerialout _ => (0xFB550000#32, 0xFFFFFF00#32)
  | .rspDeviceinfo _ => (0xFA100026#32, 0xFFFF00FF#32)
  | .rspBasicinfo _ => (0xFA300010#32, 0xFFFF00FF#32)
  | .rspBasicset _ => (0xFA35000A#32, 0xFFFF00FF#32)
  | .rspBasicsetAck _ => (0xFA350001#32, 0xFFFF00FF#32)
  | .rspSysteminfo _ => (0xFA400006#32, 0xFFFF00FF#32)
  | .rspBadlenDeviceinfo _ => (0xFA100000#32, 0xFFFF0000#32)
  | .rspBadlenBasicinfo _ => (0xFA300000#32, 0xFFFF0000#32)
  | .rspBadlenBasicset _ => (0xFA350000#32, 0xFFFF0000#32)
  | .rspBadlenSysteminfo _ => (0xFA400000#32, 0xFFFF0000#32)
  | .rspNone _ => (0xFA000000#32, 0xFFFF0000#32)
  | .rspScanout _ => (0xFA500000#32, 0xFFFF0000#32)
  | .rspSerialout _ => (0xFA550000#32, 0xFFFF0000#32)
  | .rspUnassigned _ _ => (0xFA000000#32, 0xFF000000#32)

/-- The bits a row tests: the selector of a command (30_encoding.md R112), the header word of a frame (R98). -/
def tested : Packet → Header
  | .command sel _ => sel.setWidth 32
  | .frame b => headerWord (byteAt b 0) (byteAt b 1) (byteAt b 2) (byteAt b 3)

/-- A well-formed instruction's own packet fits its row of the table. -/
def Statement (i : Instr) : Prop :=
  WellFormed i = true → tested (encode i) &&& (tableRow i).2 = (tableRow i).1

/-- The header word of a request frame. -/
theorem tested_request (op : Byte) (pay : List Byte) :
    tested (.frame (frameOf Params.markH2D op pay)) = headerWord 0xFB#8 op 0#8 (BitVec.ofNat 8 pay.length) := rfl

/-- The header word of a reply buffer. -/
theorem tested_reply (op : Byte) (r : Reply) :
    tested (.frame (replyBytes op r)) = headerWord 0xFA#8 op r.reserved (BitVec.ofNat 8 r.payload.length) := rfl

/-- A reply of one length under the mask that leaves the reserved byte out. -/
theorem exact_fits (op : Byte) (r : Reply) (n : Nat) (h : r.payload.length = n) :
    tested (.frame (replyBytes op r)) &&& 0xFFFF00FF#32 = headerWord 0xFA#8 op 0#8 (BitVec.ofNat 8 n) := by
  simp [tested_reply, mask_exact, headerWord_and, and_ones, h]

/-- A reply of any length under the mask of marker and operation code. -/
theorem op_fits (op : Byte) (r : Reply) :
    tested (.frame (replyBytes op r)) &&& 0xFFFF0000#32 = headerWord 0xFA#8 op 0#8 0#8 := by
  simp [tested_reply, mask_op, headerWord_and, and_ones]

/-- A request of any length under the mask that leaves the length byte out. -/
theorem anyLen_fits (op : Byte) (pay : List Byte) :
    tested (.frame (frameOf Params.markH2D op pay)) &&& 0xFFFFFF00#32 = headerWord 0xFB#8 op 0#8 0#8 := by
  simp [tested_request, mask_anyLen, headerWord_and, and_ones]

theorem crc16 (data : List Byte) : Statement (.crc16 data) := fun _ =>
  show (0#2).setWidth 32 &&& 0x3#32 = 0x0#32 from by decide

theorem encode (op : Byte) (pay : List Byte) : Statement (.encode op pay) := fun _ =>
  show (1#2).setWidth 32 &&& 0x3#32 = 0x1#32 from by decide

theorem genSet (en : Bool) (v i ovp ocp : Word) : Statement (.genSet en v i ovp ocp) := fun _ =>
  show (2#2).setWidth 32 &&& 0x3#32 = 0x2#32 from by decide

theorem decode (rx : List Byte) : Statement (.decode rx) := fun _ =>
  show (3#2).setWidth 32 &&& 0x3#32 = 0x3#32 from by decide

theorem reqNone (pay : List Byte) : Statement (.reqNone pay) := fun _ => (anyLen_fits _ pay).trans rfl

theorem reqDeviceinfo : Statement .reqDeviceinfo := fun _ => rfl

theorem reqBasicinfo : Statement .reqBasicinfo := fun _ => rfl

theorem reqBasicsetModify (mode en : Byte) (v i ovp ocp : Word) : Statement (.reqBasicsetModify mode en v i ovp ocp) := fun _ =>
  show headerWord 0xFB#8 0x35#8 0#8 10#8 &&& 0xFFFFFFFF#32 = 0xFB35000A#32 from by decide

theorem reqBasicsetActivate (mode : Byte) : Statement (.reqBasicsetActivate mode) := fun _ =>
  show headerWord 0xFB#8 0x35#8 0#8 1#8 &&& 0xFFFFFFFF#32 = 0xFB350001#32 from by decide

theorem reqSysteminfo : Statement .reqSysteminfo := fun _ => rfl

theorem reqScanout (pay : List Byte) : Statement (.reqScanout pay) := fun _ => (anyLen_fits _ pay).trans rfl

theorem reqSerialout (pay : List Byte) : Statement (.reqSerialout pay) := fun _ => (anyLen_fits _ pay).trans rfl

theorem rspDeviceinfo (r : Reply) : Statement (.rspDeviceinfo r) := fun h => (exact_fits _ r _ (beq_iff_eq.1 h)).trans rfl

theorem rspBasicinfo (r : Reply) : Statement (.rspBasicinfo r) := fun h => (exact_fits _ r _ (beq_iff_eq.1 h)).trans rfl

theorem rspBasicset (r : Reply) : Statement (.rspBasicset r) := fun h => (exact_fits _ r _ (beq_iff_eq.1 h)).trans rfl

theorem rspBasicsetAck (r : Reply) : Statement (.rspBasicsetAck r) := fun h => (exact_fits _ r _ (beq_iff_eq.1 h)).trans rfl

theorem rspSysteminfo (r : Reply) : Statement (.rspSysteminfo r) := fun h => (exact_fits _ r _ (beq_iff_eq.1 h)).trans rfl

theorem rspBadlenDeviceinfo (r : Reply) : Statement (.rspBadlenDeviceinfo r) := fun _ => (op_fits _ r).trans rfl

theorem rspBadlenBasicinfo (r : Reply) : Statement (.rspBadlenBasicinfo r) := fun _ => (op_fits _ r).trans rfl

theorem rspBadlenBasicset (r : Reply) : Statement (.rspBadlenBasicset r) := fun _ => (op_fits _ r).trans rfl

theorem rspBadlenSysteminfo (r : Reply) : Statement (.rspBadlenSysteminfo r) := fun _ => (op_fits _ r).trans rfl

theorem rspNone (r : Reply) : Statement (.rspNone r) := fun _ => (op_fits _ r).trans rfl

theorem rspScanout (r : Reply) : Statement (.rspScanout r) := fun _ => (op_fits _ r).trans rfl

theorem rspSerialout (r : Reply) : Statement (.rspSerialout r) := fun _ => (op_fits _ r).trans rfl

theorem rspUnassigned (op : Byte) (r : Reply) : Statement (.rspUnassigned op r) := fun _ => by
  show tested (.frame (replyBytes op r)) &&& _ = _
  simp only [tested_reply, tableRow, mask_marker, headerWord_and, and_ones, BitVec.and_zero]
  rfl

end Sys2Proof.Laws.HeaderRow
end

