-- ==== Sys2Proof/Laws/Step.lean ====
section
/-! SUPPORT. What an instruction and a step can do, each said once. -/

namespace Sys2Proof.Machine

open Sys2Proof

/-- The answers the rules allow an extractor to give for an operation code, 60_exceptions.md R221 to R226. -/
def Answers (op : Byte) (x : Except ResultKind Update) : Prop :=
  (x = .error .unrecognized ∧ op ∉ [0x10#8, 0x30#8, 0x35#8, 0x40#8]) ∨
  (x = .error .protocolViolation ∧ op ∈ [0x10#8, 0x30#8, 0x35#8, 0x40#8]) ∨
  (x = .error .decodeError ∧ op = 0x10#8) ∨
  (op = 0x10#8 ∧ ∃ d, x = .ok (.deviceInfo d) ∧ Safety.TextLegal d.devType ∧ d.sn.length = 11) ∨
  (op = 0x30#8 ∧ ∃ b, x = .ok (.basicInfo b)) ∨
  (op = 0x35#8 ∧ ((∃ b, x = .ok (.basicSet b)) ∨ x = .ok .acknowledged)) ∨
  (op = 0x40#8 ∧ ∃ b, x = .ok (.systemInfo b))

theorem xDeviceinfo_answers (p : List Byte) : Answers 0x10#8 (xDeviceinfo p) := by
  rcases xDeviceinfo_cases p with ⟨_, h⟩ | ⟨_, _, h⟩ | ⟨hl, ht, d, h, hd, hs⟩ <;> rw [h]
  · exact .inr (.inl ⟨rfl, by decide⟩)
  · exact .inr (.inr (.inl ⟨rfl, rfl⟩))
  · refine .inr (.inr (.inr (.inl ⟨rfl, d, rfl, ?_, ?_⟩)))
    · rw [hd]; exact ⟨devtypeText_length_le p, zero_not_mem_devtypeText p, ht⟩
    · rw [hs]; exact slice_length p 23 11 (by omega)

theorem xBasicinfo_answers (p : List Byte) : Answers 0x30#8 (xBasicinfo p) := by
  rcases xBasicinfo_cases p with ⟨_, h⟩ | ⟨_, b, h⟩ <;> rw [h]
  · exact .inr (.inl ⟨rfl, by decide⟩)
  · exact .inr (.inr (.inr (.inr (.inl ⟨rfl, b, rfl⟩))))

theorem xSysteminfo_answers (p : List Byte) : Answers 0x40#8 (xSysteminfo p) := by
  rcases xSysteminfo_cases p with ⟨_, h⟩ | ⟨_, b, h⟩ <;> rw [h]
  · exact .inr (.inl ⟨rfl, by decide⟩)
  · exact .inr (.inr (.inr (.inr (.inr (.inr ⟨rfl, b, rfl⟩)))))

theorem xBasicset_answers (p : List Byte) : Answers 0x35#8 (xBasicset p) := by
  rcases xBasicset_cases p with ⟨_, _, h⟩ | ⟨_, _, h⟩ | ⟨_, b, h⟩ | ⟨_, _, h⟩ <;> rw [h]
  · exact .inr (.inr (.inr (.inr (.inr (.inl ⟨rfl, .inr rfl⟩)))))
  · exact .inr (.inl ⟨rfl, by decide⟩)
  · exact .inr (.inr (.inr (.inr (.inr (.inl ⟨rfl, .inl ⟨b, rfl⟩⟩)))))
  · exact .inr (.inl ⟨rfl, by decide⟩)

theorem dispatch_answers (v : View) : Answers v.op (dispatch v) := by
  rcases dispatch_cases v with ⟨ho, h⟩ | ⟨ho, h⟩ | ⟨ho, h⟩ | ⟨ho, h⟩ | ⟨ho, h⟩ <;> rw [h]
  · rw [ho]; exact xDeviceinfo_answers _
  · rw [ho]; exact xBasicinfo_answers _
  · rw [ho]; exact xBasicset_answers _
  · rw [ho]; exact xSysteminfo_answers _
  · exact .inl ⟨rfl, ho⟩

/-- The two ways a DECODE ends: before the checksum has vouched for the frame, or with an extractor's answer. -/
def DecodeEnds (s t : State) : Prop :=
  (∃ k ∈ [ResultKind.shortBuffer, .ignored, .crcError], t = s.conclude k 0#8 none) ∨
  ∃ (v : View) (x : Except ResultKind Update), Answers v.op x ∧
    t = (s.setDsm (endDsm s.dsm x)).conclude (endKind x) v.op (some v)

theorem execDecode_ends (rx : List Byte) (s : State) : ∃ t, execDecode rx s = .next t ∧ DecodeEnds s t := by
  rw [execDecode_eq]
  refine ⟨_, rfl, ?_⟩
  rcases parse_cases rx with ⟨_, h⟩ | ⟨_, _, h⟩ | ⟨_, _, _, h⟩ | ⟨_, _, _, h⟩ | ⟨_, _, _, h⟩ <;> rw [h]
  · exact .inl ⟨.shortBuffer, by decide, rfl⟩
  · exact .inl ⟨.ignored, by decide, rfl⟩
  · exact .inl ⟨.shortBuffer, by decide, rfl⟩
  · exact .inl ⟨.crcError, by decide, rfl⟩
  · exact .inr ⟨_, _, dispatch_answers _, rfl⟩

theorem checkedReply_ends (op : Byte) (r : Reply) (x : Except ResultKind Update) (s : State) (hx : Answers op x) :
    DecodeEnds s (checkedReply op r x s) := by
  rw [checkedReply_eq]
  split
  · exact .inr ⟨⟨op, _, _⟩, x, hx, rfl⟩
  · exact .inl ⟨.crcError, by decide, rfl⟩

/-- What a reply row that a packet can be decoded to does. -/
theorem replyInstr_ends (op len : Byte) (r : Reply) (s : State) :
    ∃ t, exec (replyInstr op len r) s = .next t ∧ DecodeEnds s t := by
  unfold replyInstr
  split
  · rename_i h
    split
    · exact ⟨_, rfl, checkedReply_ends _ r _ s (xDeviceinfo_answers _)⟩
    · exact ⟨_, rfl, checkedReply_ends _ r _ s (xDeviceinfo_answers _)⟩
  split
  · split
    · exact ⟨_, rfl, checkedReply_ends _ r _ s (xBasicinfo_answers _)⟩
    · exact ⟨_, rfl, checkedReply_ends _ r _ s (xBasicinfo_answers _)⟩
  split
  · split
    · exact ⟨_, rfl, checkedReply_ends _ r _ s (xBasicset_answers _)⟩
    split
    · exact ⟨_, rfl, checkedReply_ends _ r _ s (xBasicset_answers _)⟩
    · exact ⟨_, rfl, checkedReply_ends _ r _ s (xBasicset_answers _)⟩
  split
  · split
    · exact ⟨_, rfl, checkedReply_ends _ r _ s (xSysteminfo_answers _)⟩
    · exact ⟨_, rfl, checkedReply_ends _ r _ s (xSysteminfo_answers _)⟩
  split
  · exact ⟨_, rfl, checkedReply_ends _ r _ s (.inl ⟨rfl, by decide⟩)⟩
  split
  · exact ⟨_, rfl, checkedReply_ends _ r _ s (.inl ⟨rfl, by decide⟩)⟩
  split
  · exact ⟨_, rfl, checkedReply_ends _ r _ s (.inl ⟨rfl, by decide⟩)⟩
  · rename_i h1 h2 h3 h4 _ _ _
    exact ⟨_, rfl, checkedReply_ends _ r _ s (.inl ⟨rfl, by simp [h1, h2, h3, h4]⟩)⟩

/-- A request row that a packet can be decoded to hands something back and does nothing else. -/
theorem requestInstr_next (op len : Byte) (p : List Byte) (s : State) (h : p.length = len.toNat) :
    ∃ o, exec (requestInstr op len p) s = .next (s.setOut o) := by
  have hp : p.length ≤ 255 := by have := len.isLt; omega
  have hb : ∀ (o : Byte) (q : List Byte) (_ : q.length ≤ 255), ∃ out, buildRequest o q s = .next (s.setOut out) :=
    fun o q hq => ⟨_, buildRequest_of_le o q s hq⟩
  unfold requestInstr
  split
  · exact hb _ _ hp
  split
  · exact hb _ [] (by decide)
  split
  · exact hb _ [] (by decide)
  split
  · exact hb _ (basicsetPayload _ _ _ _ _ _) (by simp [basicsetPayload, leBytes])
  split
  · exact hb _ [_] (by simp)
  split
  · exact hb _ [] (by decide)
  split
  · exact hb _ _ hp
  split
  · exact hb _ _ hp
  · exact hb _ _ hp

/-- A packet that is accepted runs: it hands something back, or it ends a DECODE. -/
theorem decoded_runs (p : Packet) (i : Instr) (s : State) (h : decode p = .ok i) :
    ∃ t, exec i s = .next t ∧ ((∃ o, t = s.setOut o) ∨ DecodeEnds s t) := by
  rcases decode_ok_cases p i h with ⟨d, rfl⟩ | ⟨op, pay, hl, rfl⟩ | ⟨en, v, c, ovp, ocp, rfl⟩ | ⟨rx, rfl⟩ |
    ⟨op, len, pay, hl, rfl⟩ | ⟨op, len, r, _, rfl⟩
  · exact ⟨_, rfl, .inl ⟨_, rfl⟩⟩
  · exact ⟨_, buildRequest_of_le op pay s hl, .inl ⟨_, rfl⟩⟩
  · exact ⟨_, rfl, .inl ⟨_, rfl⟩⟩
  · obtain ⟨t, ht, he⟩ := execDecode_ends rx s
    exact ⟨t, ht, .inr he⟩
  · obtain ⟨o, ho⟩ := requestInstr_next op len pay s hl
    exact ⟨_, ho, .inl ⟨o, rfl⟩⟩
  · obtain ⟨t, ht, he⟩ := replyInstr_ends op len r s
    exact ⟨t, ht, .inr he⟩

/-- Every step that answers next: the end of a cycle, standing idle, a packet run, or an act of the host's. -/
theorem step_cases (s t : State) (h : step s = .next t) :
    (cycleOver s.phase = true ∧ t = s.setPhase .idle) ∨
    (cycleOver s.phase = false ∧ s.moves = [] ∧ t = s) ∨
    (cycleOver s.phase = false ∧ ∃ p rest i, s.moves = .issue p :: rest ∧ decode p = .ok i ∧
      exec i (s.setMoves rest) = .next t ∧
      ((∃ o, t = (s.setMoves rest).setOut o) ∨ DecodeEnds (s.setMoves rest) t)) ∨
    (cycleOver s.phase = false ∧ ∃ a rest, s.moves = .act a :: rest ∧ hostAct a (s.setMoves rest) = .next t) := by
  unfold step at h
  cases hc : cycleOver s.phase with
  | true => rw [hc] at h; exact .inl ⟨rfl, by simpa using h.symm⟩
  | false =>
    rw [hc] at h
    simp only [Bool.false_eq_true, if_false] at h
    cases hm : s.moves with
    | nil => rw [hm] at h; exact .inr (.inl ⟨rfl, rfl, by simpa using h.symm⟩)
    | cons m rest =>
      rw [hm] at h
      cases m with
      | issue p =>
        simp only [issue] at h
        cases hd : decode p with
        | error e => rw [hd] at h; cases h
        | ok i =>
          rw [hd] at h
          obtain ⟨u, hu, hcase⟩ := decoded_runs p i (s.setMoves rest) hd
          have hut : u = t := by
            have := hu.symm.trans h
            simpa using this
          subst hut
          exact .inr (.inr (.inl ⟨rfl, p, rest, i, rfl, hd, hu, hcase⟩))
      | act a => exact .inr (.inr (.inr ⟨rfl, a, rest, rfl, h⟩))

end Sys2Proof.Machine
end

