-- ==== Sys2Proof/Tests/Slice0.lean ====
section
/-! SUPPORT. Tests and witnesses. Expected values are those of 95_test_vectors.md (named V-... and S... as there) or
computed by hand from the rule named; none is the model's own answer. A theorem witness_X shows that the hypotheses
of Obligations.X can be met together, clause by clause where it has several. -/

namespace Sys2Proof.Tests

open Sys2Proof Sys2Proof.Machine Sys2Proof.Claims

set_option maxRecDepth 40000

/-- Bytes written as numbers. -/
def hex (l : List Nat) : List Byte := l.map (BitVec.ofNat 8)

/-- The instruction a packet is read as. -/
def read (p : Packet) : Option Instr :=
  match decode p with
  | .ok i => some i
  | .error _ => none

/-- Why a packet is no instruction. -/
def turnedAway (p : Packet) : Option Reject :=
  match decode p with
  | .ok _ => none
  | .error e => some e

/-- The next state, where there is one. -/
def nextOf (o : Host.Outcome State Fault Refusal) : Option State :=
  match o with
  | .next t => some t
  | .fault _ => none
  | .refused _ => none

/-- What the host gets from an instruction run after reset. -/
def gets (i : Instr) : Option Output := (nextOf (exec i State.reset)).map (·.out)

/-- RESULT after an instruction run after reset. -/
def judged (i : Instr) : Option Result := (nextOf (exec i State.reset)).map (·.result)

/-- The records after an instruction run after reset. -/
def records (i : Instr) : Option Dsm := (nextOf (exec i State.reset)).map (·.dsm)

/-- After reset, in this phase and with these moves ahead. -/
def at_ (p : Phase) (m : List HostMove) : State := { State.reset with phase := p, moves := m }

/-- A reply without anything behind it. -/
def reply (pay : List Byte) (crc : Word) : Reply := { reserved := 0#8, payload := pay, crc := crc, trailing := [] }

/-! ### Bytes of the vectors -/

/-- V-BI-3 -/
def payBI3 : List Byte := hex [0x42, 0x4E, 0x88, 0x13, 0xD2, 0x04, 0x2C, 0x4C, 0x38, 0x01, 0x2A, 0x01, 0x94, 0x13, 0x01, 0x02]
def repBI3 : Reply := reply payBI3 0xE999#16
/-- V-DI-1 -/
def payDI1 : List Byte := hex [0x44, 0x50, 0x31, 0x30, 0x30] ++ List.replicate 10 0x00#8 ++ hex [0x0B, 0x00, 0x0E, 0x00, 0x0A, 0x00, 0x55, 0xAA, 0x01, 0x02, 0x03, 0x04, 0x05, 0x06, 0x07, 0x08, 0x09, 0x0A, 0x0B, 0xE7, 0x07, 0x05, 0x11]
def repDI1 : Reply := reply payDI1 0x715A#16
/-- V-DI-3: the text is the one byte FF. -/
def payDI3 : List Byte := hex [0xFF] ++ List.replicate 14 0x00#8 ++ hex [0x0B, 0x00, 0x0E, 0x00, 0x0A, 0x00, 0x55, 0xAA, 0x01, 0x02, 0x03, 0x04, 0x05, 0x06, 0x07, 0x08, 0x09, 0x0A, 0x0B, 0xE7, 0x07, 0x05, 0x11]
def repDI3 : Reply := reply payDI3 0x8C77#16
/-- V-BS-1 -/
def payBS1 : List Byte := hex [0x00, 0x01, 0x88, 0x13, 0xE8, 0x03, 0x24, 0x77, 0xBA, 0x13]
def repBS1 : Reply := reply payBS1 0x2EC0#16
/-- V-SI-1 -/
def paySI1 : List Byte := hex [0x04, 0x1A, 0x04, 0x20, 0x03, 0x03]
def repSI1 : Reply := reply paySI1 0x6A1A#16
/-- V-BS-2, the acknowledgement -/
def repAck : Reply := reply [1#8] 0x8833#16
def bufAck : List Byte := hex [0xFA, 0x35, 0x00, 0x01, 0x01, 0x33, 0x88]
/-- V-BS-3, the acknowledgement byte 0 -/
def repNak : Reply := reply [0#8] 0x48F2#16
/-- V-BI-6: N = 15 -/
def repBI15 : Reply := reply (List.replicate 15 0#8) 0x1386#16
/-- V-BI-7: N = 17 -/
def repBI17 : Reply := reply (List.replicate 17 0#8) 0x8345#16
/-- V-DI-8: N = 37 -/
def repDI37 : Reply := reply (List.replicate 37 0#8) 0x186C#16
/-- V-SI-4: N = 5 -/
def repSI5 : Reply := reply (List.replicate 5 0#8) 0x3174#16
/-- V-BS-8: N = 0 -/
def repBS0 : Reply := reply [] 0xF220#16
/-- V-BS-9: N = 2 -/
def repBS2 : Reply := reply [1#8, 1#8] 0xD5F9#16
/-- V-DEC-15 -/
def repNone : Reply := reply [] 0xFC30#16
/-- V-DEC-20 -/
def repScan : Reply := reply [1#8, 2#8, 3#8] 0xBA5D#16
/-- V-DEC-17 -/
def repSerial : Reply := reply [] 0xEC20#16
/-- V-DEC-19: operation code FF -/
def repFF : Reply := reply [] 0xCC00#16

/-! ### The byte form of 30_encoding.md: every constructor from a word of the spec

The selectors of R112; the operands' byte form is log entry 1. Then the request frames of V-ENC and the reply frames
of V-BI, V-DI, V-SI, V-BS, V-DEC, V-RT. -/

/-- CMD 0 -/
theorem test_decode_crc16 : read (.command 0#2 (hex [0x31, 0x32])) = some (.crc16 [0x31#8, 0x32#8]) := by decide
/-- CMD 1 -/
theorem test_decode_encode : read (.command 1#2 (hex [0x35, 0x80])) = some (.encode 0x35#8 [0x80#8]) := by decide
/-- CMD 2, the values of S7 -/
theorem test_decode_genSet :
    read (.command 2#2 (hex [0x01, 0x88, 0x13, 0xE8, 0x03, 0x24, 0x77, 0xBA, 0x13]))
      = some (.genSet true 5000#16 1000#16 30500#16 5050#16) := by decide
/-- CMD 3 -/
theorem test_decode_decode :
    read (.command 3#2 (hex [0xFA, 0x35, 0x00])) = some (.decode [0xFA#8, 0x35#8, 0x00#8]) := by decide
/-- V-ENC-5 -/
theorem test_decode_reqNone :
    read (.frame (hex [0xFB, 0x00, 0x00, 0x00, 0x31, 0x00])) = some (.reqNone []) := by decide
/-- V-ENC-1 -/
theorem test_decode_reqDeviceinfo :
    read (.frame (hex [0xFB, 0x10, 0x00, 0x00, 0x30, 0xC5])) = some (.reqDeviceinfo) := by decide
/-- V-ENC-2 -/
theorem test_decode_reqBasicinfo :
    read (.frame (hex [0xFB, 0x30, 0x00, 0x00, 0x31, 0x0F])) = some (.reqBasicinfo) := by decide
/-- V-ENC-9 -/
theorem test_decode_reqBasicsetModify :
    read (.frame (hex [0xFB, 0x35, 0x00, 0x0A, 0x20, 0x01, 0x88, 0x13, 0xE8, 0x03, 0x24, 0x77, 0xBA, 0x13, 0xC1,
      0x85]))
      = some (.reqBasicsetModify 0x20#8 1#8 5000#16 1000#16 30500#16 5050#16) := by decide
/-- V-ENC-8 -/
theorem test_decode_reqBasicsetActivate :
    read (.frame (hex [0xFB, 0x35, 0x00, 0x01, 0x80, 0xCE, 0x28])) = some (.reqBasicsetActivate 0x80#8) := by decide
/-- V-ENC-3 -/
theorem test_decode_reqSysteminfo :
    read (.frame (hex [0xFB, 0x40, 0x00, 0x00, 0x30, 0xD4])) = some (.reqSysteminfo) := by decide
/-- V-ENC-6 -/
theorem test_decode_reqScanout :
    read (.frame (hex [0xFB, 0x50, 0x00, 0x00, 0x31, 0x11])) = some (.reqScanout []) := by decide
/-- V-ENC-7 -/
theorem test_decode_reqSerialout :
    read (.frame (hex [0xFB, 0x55, 0x00, 0x00, 0x21, 0x10])) = some (.reqSerialout []) := by decide
/-- V-DI-1 -/
theorem test_decode_rspDeviceinfo :
    read (.frame (hex [0xFA, 0x10, 0x00, 0x26, 0x44, 0x50, 0x31, 0x30,
      0x30] ++ List.replicate 10 0x00#8 ++ hex [0x0B, 0x00, 0x0E, 0x00, 0x0A, 0x00, 0x55, 0xAA, 0x01, 0x02, 0x03,
      0x04, 0x05, 0x06, 0x07, 0x08, 0x09, 0x0A, 0x0B, 0xE7, 0x07, 0x05, 0x11, 0x5A, 0x71]))
      = some (.rspDeviceinfo repDI1) := by decide
/-- V-BI-3 -/
theorem test_decode_rspBasicinfo :
    read (.frame (hex [0xFA, 0x30, 0x00, 0x10, 0x42, 0x4E, 0x88, 0x13, 0xD2, 0x04, 0x2C, 0x4C, 0x38, 0x01, 0x2A,
      0x01, 0x94, 0x13, 0x01, 0x02, 0x99, 0xE9]))
      = some (.rspBasicinfo repBI3) := by decide
/-- V-BS-1 -/
theorem test_decode_rspBasicset :
    read (.frame (hex [0xFA, 0x35, 0x00, 0x0A, 0x00, 0x01, 0x88, 0x13, 0xE8, 0x03, 0x24, 0x77, 0xBA, 0x13, 0xC0,
      0x2E]))
      = some (.rspBasicset repBS1) := by decide
/-- V-DEC-11, one byte behind the frame -/
theorem test_decode_rspBasicsetAck :
    read (.frame (hex [0xFA, 0x35, 0x7F, 0x01, 0x01, 0x02, 0x50, 0xFF]))
      = some (.rspBasicsetAck ⟨0x7F#8, [1#8], 0x5002#16, [0xFF#8]⟩) := by decide
/-- V-SI-1 -/
theorem test_decode_rspSysteminfo :
    read (.frame (hex [0xFA, 0x40, 0x00, 0x06, 0x04, 0x1A, 0x04, 0x20, 0x03, 0x03, 0x1A, 0x6A]))
      = some (.rspSysteminfo repSI1) := by decide
/-- V-RT-2 -/
theorem test_decode_rspBadlenDeviceinfo :
    read (.frame (hex [0xFA, 0x10, 0x00, 0x00, 0x31, 0x39]))
      = some (.rspBadlenDeviceinfo (reply [] 0x3931#16)) := by decide
/-- V-RT-3 -/
theorem test_decode_rspBadlenBasicinfo :
    read (.frame (hex [0xFA, 0x30, 0x00, 0x00, 0x30, 0xF3]))
      = some (.rspBadlenBasicinfo (reply [] 0xF330#16)) := by decide
/-- V-BS-9 -/
theorem test_decode_rspBadlenBasicset :
    read (.frame (hex [0xFA, 0x35, 0x00, 0x02, 0x01, 0x01, 0xF9, 0xD5]))
      = some (.rspBadlenBasicset repBS2) := by decide
/-- V-RT-4 -/
theorem test_decode_rspBadlenSysteminfo :
    read (.frame (hex [0xFA, 0x40, 0x00, 0x00, 0x31, 0x28]))
      = some (.rspBadlenSysteminfo (reply [] 0x2831#16)) := by decide
/-- V-DEC-15 -/
theorem test_decode_rspNone :
    read (.frame (hex [0xFA, 0x00, 0x00, 0x00, 0x30, 0xFC])) = some (.rspNone repNone) := by decide
/-- V-DEC-20 -/
theorem test_decode_rspScanout :
    read (.frame (hex [0xFA, 0x50, 0x00, 0x03, 0x01, 0x02, 0x03, 0x5D, 0xBA]))
      = some (.rspScanout repScan) := by decide
/-- V-DEC-17 -/
theorem test_decode_rspSerialout :
    read (.frame (hex [0xFA, 0x55, 0x00, 0x00, 0x20, 0xEC])) = some (.rspSerialout repSerial) := by decide
/-- V-DEC-19 -/
theorem test_decode_rspUnassigned :
    read (.frame (hex [0xFA, 0xFF, 0x00, 0x00, 0x00, 0xCC])) = some (.rspUnassigned 0xFF#8 repFF) := by decide

/-! Frames of no row, and what the decoder turns away by name (log entries 7, 8, 9). -/

/-- V-ENC-4: a frame that ENCODE builds and no row has -/
theorem test_decode_unlisted_request :
    read (.frame (hex [0xFB, 0x35, 0x00, 0x00, 0x21, 0x0E])) = some (.encode 0x35#8 []) := by decide
/-- R109: the one byte must be 80, so no row -/
theorem test_decode_activate_other_byte :
    read (.frame (hex [0xFB, 0x35, 0x00, 0x01, 0x20, 0x00, 0x00])) = some (.encode 0x35#8 [0x20#8]) := by decide
/-- R107, R109: byte 0 must be 20 -/
theorem test_decode_modify_other_mode :
    read (.frame (hex [0xFB, 0x35, 0x00, 0x0A, 0x80, 0x01] ++ List.replicate 10 0x00#8))
      = some (.encode 0x35#8 (0x80#8 :: 1#8 :: List.replicate 8 0#8)) := by decide
/-- R107: byte 1 is 0 or 1 -/
theorem test_decode_modify_other_enable :
    read (.frame (hex [0xFB, 0x35, 0x00, 0x0A, 0x20, 0x02] ++ List.replicate 10 0x00#8))
      = some (.encode 0x35#8 (0x20#8 :: 2#8 :: List.replicate 8 0#8)) := by decide
/-- V-DEC-4: no row, a buffer for DECODE -/
theorem test_decode_other_marker :
    read (.frame (List.replicate 8 0x00#8)) = some (.decode (List.replicate 8 0#8)) := by decide
/-- V-DEC-7: no whole frame, a buffer for DECODE -/
theorem test_decode_cut_reply :
    read (.frame (hex [0xFA, 0x35, 0x00, 0x01, 0x01, 0x33]))
      = some (.decode (hex [0xFA, 0x35, 0x00, 0x01, 0x01, 0x33])) := by decide
/-- V-DEC-1 -/
theorem test_decode_empty_buffer : read (.frame []) = some (.decode []) := by decide
/-- ENCODE needs its operation code, 30_encoding.md R112 -/
theorem test_reject_missingOperand : turnedAway (.command 1#2 []) = some .missingOperand := by decide
/-- 256 payload bytes, 41_frame_build.md R152 -/
theorem test_reject_payloadTooLong :
    turnedAway (.command 1#2 (List.replicate 257 0#8)) = some .payloadTooLong := by decide
/-- GEN_SET has nine operand bytes (log entry 1) -/
theorem test_reject_genSetOperands :
    turnedAway (.command 2#2 (List.replicate 8 0#8)) = some .genSetOperands := by decide
/-- the enable operand is one bit, 41_frame_build.md R155 -/
theorem test_reject_enableNotABit :
    turnedAway (.command 2#2 (2#8 :: List.replicate 8 0#8)) = some .enableNotABit := by decide
/-- a frame has 6 + N bytes, 20_memory.md R62 -/
theorem test_reject_requestExtent :
    turnedAway (.frame (hex [0xFB, 0x10, 0x00, 0x00, 0x30])) = some .requestExtent := by decide
/-- the shortest frame has 6 bytes, 30_encoding.md R97 -/
theorem test_reject_requestCutHeader : turnedAway (.frame (hex [0xFB])) = some .requestExtent := by decide
/-- ENCODE writes 0 there, 30_encoding.md R93 -/
theorem test_reject_reservedNotZero :
    turnedAway (.frame (hex [0xFB, 0x10, 0x01, 0x00, 0x00, 0x00])) = some .reservedNotZero := by decide

/-! ### Words of spec/opcode_table.json -/

/-- GEN_SET's row: the selector, with zero operands. -/
theorem test_table_word_genSet : decodeTableWord 8 2 = some (.genSet false 0#16 0#16 0#16 0#16) := by decide
/-- RSP.BASICSET's row: ten zero payload bytes and a zero checksum. -/
theorem test_table_word_rspBasicset :
    decodeTableWord 32 0xFA35000A = some (.rspBasicset (reply (List.replicate 10 0#8) 0#16)) := by decide
/-- The word of REQ.BASICSET.ACTIVATE with a zero payload byte does not meet R109's payload condition (log entry 17). -/
theorem test_table_word_reqBasicsetActivate : decodeTableWord 32 0xFB350001 = some (.encode 0x35#8 [0#8]) := by decide
/-- The word is fetched by the next step, from reset and from the end of a cycle. -/
theorem test_withFetchWord : (nextOf (step ((at_ .decoded []).withFetchWord 32 0xFB300000))).map (·.out)
    = some (.frame (hex [0xFB, 0x30, 0x00, 0x00, 0x31, 0x0F])) := by decide

/-! ### Well-formedness: each condition refuses a term that breaks it, and its neighbour passes -/

/-- 30_encoding.md R94 -/
theorem test_wf_encode :
    WellFormed (.encode 0#8 (List.replicate 256 0#8)) = false ∧
      WellFormed (.encode 0#8 (List.replicate 255 0#8)) = true := by decide
/-- R94 -/
theorem test_wf_reqNone :
    WellFormed (.reqNone (List.replicate 256 0#8)) = false ∧
      WellFormed (.reqNone (List.replicate 255 0#8)) = true := by decide
/-- R94 -/
theorem test_wf_reqScanout :
    WellFormed (.reqScanout (List.replicate 256 0#8)) = false ∧
      WellFormed (.reqScanout (List.replicate 255 0#8)) = true := by decide
/-- R94 -/
theorem test_wf_reqSerialout :
    WellFormed (.reqSerialout (List.replicate 256 0#8)) = false ∧
      WellFormed (.reqSerialout (List.replicate 255 0#8)) = true := by decide
/-- R107: the mode byte -/
theorem test_wf_modify_mode :
    WellFormed (.reqBasicsetModify 0x80#8 1#8 0#16 0#16 0#16 0#16) = false ∧
      WellFormed (.reqBasicsetModify 0x20#8 0#8 0#16 0#16 0#16 0#16) = true := by decide
/-- R107: the enable byte -/
theorem test_wf_modify_enable :
    WellFormed (.reqBasicsetModify 0x20#8 2#8 0#16 0#16 0#16 0#16) = false ∧
      WellFormed (.reqBasicsetModify 0x20#8 1#8 0#16 0#16 0#16 0#16) = true := by decide
/-- R108 -/
theorem test_wf_activate :
    WellFormed (.reqBasicsetActivate 0x20#8) = false ∧ WellFormed (.reqBasicsetActivate 0x80#8) = true := by decide
/-- R103: N = 38 -/
theorem test_wf_rspDeviceinfo :
    WellFormed (.rspDeviceinfo (reply (List.replicate 37 0#8) 0#16)) = false ∧
      WellFormed (.rspDeviceinfo repDI1) = true := by decide
/-- R102: N = 16 -/
theorem test_wf_rspBasicinfo :
    WellFormed (.rspBasicinfo (reply (List.replicate 17 0#8) 0#16)) = false ∧
      WellFormed (.rspBasicinfo repBI3) = true := by decide
/-- R105: N = 10 -/
theorem test_wf_rspBasicset :
    WellFormed (.rspBasicset (reply (List.replicate 1 0#8) 0#16)) = false ∧
      WellFormed (.rspBasicset repBS1) = true := by decide
/-- R106: N = 1 -/
theorem test_wf_rspBasicsetAck :
    WellFormed (.rspBasicsetAck (reply (List.replicate 10 0#8) 0#16)) = false ∧
      WellFormed (.rspBasicsetAck repAck) = true := by decide
/-- R104: N = 6 -/
theorem test_wf_rspSysteminfo :
    WellFormed (.rspSysteminfo (reply (List.replicate 5 0#8) 0#16)) = false ∧
      WellFormed (.rspSysteminfo repSI1) = true := by decide
/-- R110 -/
theorem test_wf_rspBadlenDeviceinfo :
    WellFormed (.rspBadlenDeviceinfo (reply (List.replicate 38 0#8) 0#16)) = false ∧
      WellFormed (.rspBadlenDeviceinfo repDI37) = true := by decide
/-- R110 -/
theorem test_wf_rspBadlenBasicinfo :
    WellFormed (.rspBadlenBasicinfo (reply (List.replicate 16 0#8) 0#16)) = false ∧
      WellFormed (.rspBadlenBasicinfo repBI15) = true := by decide
/-- R110 -/
theorem test_wf_rspBadlenBasicset :
    WellFormed (.rspBadlenBasicset (reply (List.replicate 10 0#8) 0#16)) = false ∧
      WellFormed (.rspBadlenBasicset repBS2) = true := by decide
/-- R110 -/
theorem test_wf_rspBadlenBasicset_ack :
    WellFormed (.rspBadlenBasicset (reply (List.replicate 1 0#8) 0#16)) = false ∧
      WellFormed (.rspBadlenBasicset repBS0) = true := by decide
/-- R110 -/
theorem test_wf_rspBadlenSysteminfo :
    WellFormed (.rspBadlenSysteminfo (reply (List.replicate 6 0#8) 0#16)) = false ∧
      WellFormed (.rspBadlenSysteminfo repSI5) = true := by decide
/-- R94 -/
theorem test_wf_rspNone :
    WellFormed (.rspNone (reply (List.replicate 256 0#8) 0#16)) = false ∧
      WellFormed (.rspNone (reply (List.replicate 255 0#8) 0#16)) = true := by decide
/-- R94 -/
theorem test_wf_rspScanout :
    WellFormed (.rspScanout (reply (List.replicate 256 0#8) 0#16)) = false ∧
      WellFormed (.rspScanout (reply (List.replicate 255 0#8) 0#16)) = true := by decide
/-- R94 -/
theorem test_wf_rspSerialout :
    WellFormed (.rspSerialout (reply (List.replicate 256 0#8) 0#16)) = false ∧
      WellFormed (.rspSerialout (reply (List.replicate 255 0#8) 0#16)) = true := by decide
/-- R110: not in the enumerated set -/
theorem test_wf_rspUnassigned :
    WellFormed (.rspUnassigned 0x55#8 (reply (List.replicate 0 0#8) 0#16)) = false ∧
      WellFormed (.rspUnassigned 0x56#8 (reply (List.replicate 0 0#8) 0#16)) = true := by decide
/-- R94 -/
theorem test_wf_rspUnassigned_length :
    WellFormed (.rspUnassigned 0x56#8 (reply (List.replicate 256 0#8) 0#16)) = false := by decide

/-! ### Checksum -/

/-- V-CRC-6 -/
theorem test_crc16_check_string :
    gets (.crc16 (hex [0x31, 0x32, 0x33, 0x34, 0x35, 0x36, 0x37, 0x38, 0x39])) = some (.crc 0x4B37#16) := by decide
/-- V-CRC-15, V-CRC-1 -/
theorem test_crc16_swapped :
    gets (.crc16 (hex [0xFA, 0x35, 0x00, 0x01, 0x01, 0x88, 0x33]))
      = some (.crc 0x8332#16) ∧ gets (.crc16 [])
      = some (.crc 0xFFFF#16) := by decide
/-- the eight turns printed below the table of family 1 -/
theorem test_crcTurn : (List.range 8).map (fun n => crcTurns true 0xA001#16 (n + 1) 0xFF04#16)
    = [0x7F82#16, 0x3FC1#16, 0xBFE1#16, 0xFFF1#16, 0xDFF9#16, 0xCFFD#16, 0xC7FF#16, 0xC3FE#16] := by decide
/-- The wrong variants printed there: initial value 0, and left-shifting 0x8005 with initial value 0xFFFF. -/
theorem test_crcWith_variants :
    crcWith { Params.crcCfg with init := 0#16 } (hex [0xFB, 0x10, 0x00, 0x00]) = 0xE130#16 ∧
    crcWith { Params.crcCfg with reflected := false } (hex [0xFB, 0x10, 0x00, 0x00]) = 0x5D4C#16 := by decide

/-! ### Builder -/

/-- V-ENC-12 -/
theorem test_encode_longest : (match gets (.encode 0x55#8 ((List.range 255).map (BitVec.ofNat 8))) with
    | some (.frame tx) => tx.length = 261 ∧ tx.take 6 = hex [0xFB, 0x55, 0x00, 0xFF, 0x00, 0x01] ∧ tx.drop 257 = hex [0xFD, 0xFE, 0x55, 0xDC]
    | _ => False) := by
  show _ ∧ _ ∧ _
  decide +kernel
/-- V-ENC-14 -/
theorem test_encode_any_payload :
    gets (.encode 0x35#8 (hex [0x20, 0x01, 0x88, 0x13, 0xE8, 0x03, 0x74, 0x77, 0xFA, 0x13]))
      = some (.frame (hex [0xFB, 0x35, 0x00, 0x0A, 0x20, 0x01, 0x88, 0x13, 0xE8, 0x03, 0x74, 0x77, 0xFA, 0x13, 0xE1,
      0x45])) := by decide
/-- V-GS-1 -/
theorem test_genSet :
    gets (.genSet true 5000#16 1000#16 30500#16 5050#16)
      = some (.payload (hex [0x20, 0x01, 0x88, 0x13, 0xE8, 0x03, 0x24, 0x77, 0xBA, 0x13])) := by decide
/-- V-GS-5 -/
theorem test_genSet_order :
    gets (.genSet true 256#16 1#16 255#16 32768#16)
      = some (.payload (hex [0x20, 0x01, 0x00, 0x01, 0x01, 0x00, 0xFF, 0x00, 0x00, 0x80])) := by decide
/-- V-ENC-13 -/
theorem test_reqNone :
    (gets (.reqNone (List.replicate 255 0#8))).map (fun o => match o with | .frame tx => tx.drop 258 | _ => [])
      = some (hex [0x00, 0x11, 0x5B]) := by decide +kernel
/-- V-ENC-1 -/
theorem test_reqDeviceinfo :
    gets .reqDeviceinfo = some (.frame (hex [0xFB, 0x10, 0x00, 0x00, 0x30, 0xC5])) := by decide
/-- V-ENC-2 -/
theorem test_reqBasicinfo : gets .reqBasicinfo = some (.frame (hex [0xFB, 0x30, 0x00, 0x00, 0x31, 0x0F])) := by decide
/-- V-ENC-9 -/
theorem test_reqBasicsetModify : gets (.reqBasicsetModify 0x20#8 1#8 5000#16 1000#16 30500#16 5050#16)
    = some (.frame (hex [0xFB, 0x35, 0x00, 0x0A, 0x20, 0x01, 0x88, 0x13, 0xE8, 0x03, 0x24, 0x77, 0xBA, 0x13, 0xC1, 0x85])) := by decide
/-- V-ENC-8 -/
theorem test_reqBasicsetActivate :
    gets (.reqBasicsetActivate 0x80#8) = some (.frame (hex [0xFB, 0x35, 0x00, 0x01, 0x80, 0xCE, 0x28])) := by decide
/-- V-ENC-3 -/
theorem test_reqSysteminfo :
    gets .reqSysteminfo = some (.frame (hex [0xFB, 0x40, 0x00, 0x00, 0x30, 0xD4])) := by decide
/-- V-ENC-6 -/
theorem test_reqScanout :
    gets (.reqScanout []) = some (.frame (hex [0xFB, 0x50, 0x00, 0x00, 0x31, 0x11])) := by decide
/-- V-ENC-7 -/
theorem test_reqSerialout :
    gets (.reqSerialout []) = some (.frame (hex [0xFB, 0x55, 0x00, 0x00, 0x21, 0x10])) := by decide

/-! ### Parser -/

/-- V-DEC-1, V-DEC-2, V-DEC-5, V-DEC-6, V-DEC-7 -/
theorem test_decode_order : [[], [0xFB#8], hex [0xFA, 0x35, 0x00], hex [0xFA, 0x35, 0x00, 0x01, 0x00, 0x33, 0x88],
      hex [0xFA, 0x35, 0x00, 0x01, 0x01, 0x33]].map (fun rx => judged (.decode rx))
    = [some ⟨.shortBuffer, 0#8⟩, some ⟨.ignored, 0#8⟩, some ⟨.shortBuffer, 0#8⟩, some ⟨.crcError, 0#8⟩,
      some ⟨.shortBuffer, 0#8⟩] := by decide
/-- V-DEC-21, V-DEC-22 -/
theorem test_decode_length_flip :
    judged (.decode (hex [0xFA, 0x35, 0x00, 0x03, 0x01, 0x33, 0x88, 0x01, 0xB8]))
      = some ⟨.protocolViolation, 0x35#8⟩ ∧
    judged (.decode (hex [0xFA, 0x35, 0x00, 0x01, 0x01, 0x33, 0x88, 0x01, 0xB8])) = some ⟨.updated, 0x35#8⟩ := by decide
/-- The codes of 60_exceptions.md R220. -/
theorem test_kind_codes : [ResultKind.none, .updated, .ignored, .crcError, .protocolViolation, .decodeError,
    .unrecognized, .shortBuffer].map (fun k => k.code.toNat) = [0, 1, 2, 3, 4, 5, 6, 7] := by decide

/-! ### Reply rows -/

/-- V-BI-3 -/
theorem test_rspBasicinfo : (records (.rspBasicinfo repBI3)).map (·.basicInfo)
    = some ⟨20034#16, 5000#16, 1234#16, 19500#16, 312#16, 298#16, 5012#16, 1#8, 2#8⟩ := by decide
/-- V-BI-3: the other records are unchanged -/
theorem test_rspBasicinfo_other_records :
    (records (.rspBasicinfo repBI3)).map (fun d => (d.deviceInfo, d.systemInfo, d.basicSet))
    = some (Dsm.reset.deviceInfo, Dsm.reset.systemInfo, Dsm.reset.basicSet) ∧
    judged (.rspBasicinfo repBI3) = some ⟨.updated, 0x30#8⟩ := by decide
/-- V-DI-1 -/
theorem test_rspDeviceinfo : (records (.rspDeviceinfo repDI1)).map (·.deviceInfo)
    = some ⟨hex [0x44, 0x50, 0x31, 0x30, 0x30], 11#16, 14#16, 10#16, 0xAA55#16,
      hex [0x01, 0x02, 0x03, 0x04, 0x05, 0x06, 0x07, 0x08, 0x09, 0x0A, 0x0B], 2023#16, 5#8, 17#8⟩ := by decide
/-- V-DI-3 -/
theorem test_rspDeviceinfo_bad_text :
    judged (.rspDeviceinfo repDI3)
      = some ⟨.decodeError, 0x10#8⟩ ∧ records (.rspDeviceinfo repDI3)
      = some Dsm.reset := by decide
/-- V-SI-1 -/
theorem test_rspSysteminfo :
    (records (.rspSysteminfo repSI1)).map (·.systemInfo) = some ⟨4#8, 1050#16, 800#16, 3#8⟩ := by decide
/-- V-SI-2 -/
theorem test_rspSysteminfo_all_ones :
    (records (.rspSysteminfo (reply (List.replicate 6 0xFF#8) 0xA803#16))).map (·.systemInfo)
    = some ⟨255#8, 65535#16, 65535#16, 255#8⟩ := by decide
/-- V-BS-1 -/
theorem test_rspBasicset :
    (records (.rspBasicset repBS1)).map (·.basicSet)
      = some ⟨0#8, 1#8, 5000#16, 1000#16, 30500#16, 5050#16⟩ := by decide
/-- V-BS-5 -/
theorem test_rspBasicset_whole_index :
    (records (.rspBasicset (reply (hex [0x83, 0x00, 0xE0, 0x2E, 0xC4, 0x09, 0xD4, 0x30, 0x28,
      0x0A]) 0x0661#16))).map (·.basicSet)
    = some ⟨0x83#8, 0#8, 12000#16, 2500#16, 12500#16, 2600#16⟩ := by decide
/-- V-BS-2 -/
theorem test_rspBasicsetAck :
    judged (.rspBasicsetAck repAck)
      = some ⟨.updated, 0x35#8⟩ ∧ records (.rspBasicsetAck repAck)
      = some Dsm.reset := by decide
/-- V-BS-3 -/
theorem test_rspBasicsetAck_other : judged (.rspBasicsetAck repNak) = some ⟨.protocolViolation, 0x35#8⟩ := by decide
/-- V-DI-8 -/
theorem test_rspBadlenDeviceinfo :
    judged (.rspBadlenDeviceinfo repDI37) = some ⟨.protocolViolation, 0x10#8⟩ := by decide
/-- V-BI-6, V-BI-7 -/
theorem test_rspBadlenBasicinfo : judged (.rspBadlenBasicinfo repBI15) = some ⟨.protocolViolation, 0x30#8⟩ ∧
    judged (.rspBadlenBasicinfo repBI17) = some ⟨.protocolViolation, 0x30#8⟩ := by decide
/-- V-BS-8, V-BS-9 -/
theorem test_rspBadlenBasicset : judged (.rspBadlenBasicset repBS0) = some ⟨.protocolViolation, 0x35#8⟩ ∧
    judged (.rspBadlenBasicset repBS2) = some ⟨.protocolViolation, 0x35#8⟩ := by decide
/-- V-SI-4 -/
theorem test_rspBadlenSysteminfo :
    judged (.rspBadlenSysteminfo repSI5) = some ⟨.protocolViolation, 0x40#8⟩ := by decide
/-- V-DEC-15 -/
theorem test_rspNone : judged (.rspNone repNone) = some ⟨.unrecognized, 0x00#8⟩ := by decide
/-- V-DEC-20 -/
theorem test_rspScanout : gets (.rspScanout repScan)
    = some (.decoded ⟨.unrecognized, 0x50#8⟩ (some ⟨0x50#8, 3#8, [1#8, 2#8, 3#8]⟩)) := by decide
/-- V-DEC-17 -/
theorem test_rspSerialout : judged (.rspSerialout repSerial) = some ⟨.unrecognized, 0x55#8⟩ := by decide
/-- V-DEC-19 -/
theorem test_rspUnassigned : judged (.rspUnassigned 0xFF#8 repFF) = some ⟨.unrecognized, 0xFF#8⟩ := by decide

/-! ### Text -/

/-- The well-formed cases below the table of family 4. -/
theorem test_utf8_wellformed :
    ([[], [0x44, 0x50, 0x31, 0x30, 0x30], [0xC3, 0xA9], [0xE2, 0x82, 0xAC], [0xF0, 0x9F, 0x98, 0x80], [0x7F]]).all (fun t => utf8Wellformed (hex t)) = true := by decide
/-- The ill-formed cases there. -/
theorem test_utf8_illformed :
    ([[0xFF], [0x80], [0xC0, 0x80], [0xC1, 0xBF], [0xE0, 0x80, 0x80], [0xED, 0xA0, 0x80], [0xF4, 0x90, 0x80, 0x80], [0xF5, 0x80, 0x80, 0x80], [0xC3], [0xE2, 0x82]]).any
      (fun t => utf8Wellformed (hex t)) = false := by decide

/-! ### Host -/

/-- 10_state.md R33: a built frame moves PHASE out of Idle, other bytes do not. -/
theorem test_send :
    (nextOf (step (at_ .idle [.act (.send (hex [0xFB, 0x30, 0x00, 0x00, 0x31, 0x0F]))]))).map (·.phase) = some .frameSent ∧
    (nextOf (step (at_ .idle [.act (.send (hex [0xFB, 0x30, 0x00, 0x00, 0x31, 0x0E]))]))).map (·.phase) = some .idle := by
  decide
/-- Each register read names its own field: the records after V-DI-1, read back (10_state.md R23). -/
theorem test_read_registers :
    (nextOf (exec (.rspDeviceinfo repDI1) State.reset)).map (fun t =>
      [Register.hwVer, .appVer, .bootVer, .runArea, .year, .month, .day, .vin, .volLev, .result].map (readRegister t))
    = some [.num 16 11, .num 16 14, .num 16 10, .num 16 0xAA55, .num 16 2023, .num 8 5, .num 8 17, .num 16 0, .num 8 0,
        .result ⟨.updated, 0x10#8⟩] := by decide

/-! ### Witnesses -/

theorem witness_DecodeOfEncodeIsTheInstruction :
    [Instr.crc16 [], .encode 0xFF#8 [1#8], .genSet true 0#16 1#16 2#16 3#16, .decode [0xFA#8],
    .reqNone [1#8], .reqDeviceinfo, .reqBasicinfo, .reqBasicsetModify 0x20#8 1#8 0#16 1#16 2#16 3#16,
    .reqBasicsetActivate 0x80#8, .reqSysteminfo, .reqScanout [1#8], .reqSerialout [1#8], .rspDeviceinfo repDI1,
    .rspBasicinfo repBI3, .rspBasicset repBS1, .rspBasicsetAck repAck, .rspSysteminfo repSI1,
    .rspBadlenDeviceinfo repDI37, .rspBadlenBasicinfo repBI15, .rspBadlenBasicset repBS2, .rspBadlenSysteminfo repSI5,
    .rspNone repNone, .rspScanout repScan, .rspSerialout repSerial, .rspUnassigned 0xFF#8 repFF].all WellFormed = true := by decide
theorem witness_AcceptedPacketsRun : decode (.frame bufAck) = .ok (.rspBasicsetAck repAck) := rfl
theorem witness_StepRunsTheDecodedInstruction : TakesMoves (at_ .idle [.issue (.frame bufAck)]) ∧
    (at_ .idle [.issue (.frame bufAck)]).moves = .issue (.frame bufAck) :: [] ∧
    decode (.frame bufAck) = .ok (.rspBasicsetAck repAck) ∧ WellFormed (.rspBasicsetAck repAck) = true := ⟨⟨by decide, by decide⟩, rfl, rfl, by decide⟩
theorem witness_StepStopsOnlyWhereNamed_fault :
    step (at_ .idle [.act .readHangs]) = .fault .transportNeverReturns := rfl
theorem witness_StepStopsOnlyWhereNamed_refused :
    step (at_ .idle [.issue (.command 1#2 [])]) = .refused (.badPacket .missingOperand) := rfl
theorem witness_NoMoveNoChange : TakesMoves State.reset ∧ State.reset.moves = [] := ⟨⟨by decide, by decide⟩, rfl⟩
/-- V-CRC-5 -/
theorem witness_ResidueTestIsTheTrailingByteTest :
    2 ≤ [0xFF#8, 0xFF#8].length ∧ crc16 [0xFF#8, 0xFF#8] = 0#16 := by decide
/-- V-CRC-9, its first and its last bit -/
theorem witness_SingleBitFlipIsDetectedOverAFixedRange :
    crc16 bufAck = 0#16 ∧ 0 < bufAck.length ∧ 6 < bufAck.length ∧ 0 < 8 ∧ 7 < 8 := by decide
theorem witness_EncodeBuildsTheFrame :
    ([] : List Byte).length ≤ 255 ∧ (List.replicate 255 0#8).length ≤ 255 := by decide
theorem witness_OverlongPayloadIsRefused : 255 < (List.replicate 256 0#8).length := by decide
theorem witness_UnlaidRequestsAreBuiltLikeAnyOther :
    ([] : List Byte).length ≤ 255 ∧ (List.replicate 255 0#8).length ≤ 255 := by decide
theorem witness_BuildersLeaveTheCodecAlone :
    receives (.reqScanout []) = false ∧ ∃ t, exec (.reqScanout []) State.reset = .next t := ⟨rfl, _, rfl⟩
/-- V-DEC-5 and V-DEC-7; the empty buffer is the third clause itself -/
theorem witness_BufferThatEndsEarlyIsShort :
    (byteAt (hex [0xFA, 0x35, 0x00]) 0 = 0xFA#8 ∧ (hex [0xFA, 0x35, 0x00]).length < 4) ∧
    byteAt (hex [0xFA, 0x35, 0x00, 0x01, 0x01, 0x33]) 0 = 0xFA#8 ∧
    (hex [0xFA, 0x35, 0x00, 0x01, 0x01, 0x33]).length < 6 + lengthByte (hex [0xFA, 0x35, 0x00, 0x01, 0x01, 0x33]) := by decide
theorem witness_OtherMarkerIsIgnored : (0xFB#8 : Byte) ≠ 0xFA#8 ∧ (0xF9#8 : Byte) ≠ 0xFA#8 := by decide
/-- V-DEC-6 -/
theorem witness_ChecksumMismatchIsCrcError : byteAt (hex [0xFA, 0x35, 0x00, 0x01, 0x00, 0x33, 0x88]) 0 = 0xFA#8 ∧
    6 + lengthByte (hex [0xFA, 0x35, 0x00, 0x01, 0x00, 0x33, 0x88]) ≤ (hex [0xFA, 0x35, 0x00, 0x01, 0x00, 0x33, 0x88]).length ∧
    crc16 ((hex [0xFA, 0x35, 0x00, 0x01, 0x00, 0x33, 0x88]).take
      (6 + lengthByte (hex [0xFA, 0x35, 0x00, 0x01, 0x00, 0x33, 0x88]))) ≠ 0#16 := by decide
/-- An intact frame; its byte 1, its last byte, and byte 0 -/
theorem witness_ChecksumMismatchIsCrcError_flip :
    Intact bufAck ∧ (1 < 6 + lengthByte bufAck ∧ 0 < 8) ∧ (6 < 6 + lengthByte bufAck ∧ 7 < 8) ∧
      0 < 6 + lengthByte bufAck := by unfold Intact; decide
/-- Every kind is reached: V-DEC-1, V-DEC-2, V-DEC-12, V-DEC-18, V-BI-7, V-DI-3, V-DI-1 -/
theorem witness_DecodeReportsTheFirstKindThatApplies :
    [[], hex [0xFB], hex [0xFA, 0x34, 0x00, 0x01, 0x01, 0x33, 0x88], hex [0xFA, 0x11, 0x00, 0x00, 0x60, 0xF9],
      replyFrameBytes 0x30#8 repBI17, replyFrameBytes 0x10#8 repDI3, replyFrameBytes 0x10#8 repDI1].map
        (fun rx => (judged (.decode rx)).map (·.kind))
    = [some .shortBuffer, some .ignored, some .crcError, some .unrecognized, some .protocolViolation, some .decodeError,
        some .updated] := by decide
theorem witness_ParserRecoversWhatTheBuilderBuilt :
    ([] : List Byte).length ≤ 255 ∧ (List.replicate 255 0#8).length ≤ 255 := by decide
theorem witness_BytesBehindTheFramePlayNoPart : 4 ≤ bufAck.length ∧ bufAck.length = 6 + lengthByte bufAck := by decide
/-- V-BS-2 and V-DEC-11 -/
theorem witness_ReservedByteIsNotLookedAt : [1#8].length = (1#8 : Byte).toNat ∧
    crc16 ([0xFA#8, 0x35#8, 0x00#8, 1#8] ++ [1#8] ++ [0x33#8, 0x88#8]) = 0#16 ∧
    crc16 ([0xFA#8, 0x35#8, 0x7F#8, 1#8] ++ [1#8] ++ [0x02#8, 0x50#8]) = 0#16 := by decide
theorem witness_DecodeIsIdempotent :
    ∃ t u, exec (.decode bufAck) State.reset = .next t ∧ exec (.decode bufAck) t = .next u := ⟨_, _, rfl, rfl⟩
theorem witness_DecodeDependsOnTheBufferAlone : ∃ t t', exec (.decode bufAck) State.reset = .next t ∧
    exec (.decode bufAck) (at_ .awaitingReply []) = .next t' ∧ State.reset.dsm = (at_ .awaitingReply []).dsm := ⟨_, _, rfl, rfl, rfl⟩
theorem witness_ErrorsLeaveEveryRecord : receives (.decode []) = true ∧
    ∃ t, exec (.decode []) State.reset = .next t ∧ t.result.kind ≠ .updated := ⟨rfl, _, rfl, by decide⟩
theorem witness_DecodeTouchesAtMostTheNamedRecord_basicInfo : receives (.rspBasicinfo repBI3) = true ∧
    ∃ t, exec (.rspBasicinfo repBI3) State.reset = .next t ∧ t.dsm.basicInfo ≠ State.reset.dsm.basicInfo ∧ State.reset.phase ≠ .awaitingReply := ⟨rfl, _, rfl, by decide⟩
theorem witness_DecodeTouchesAtMostTheNamedRecord_deviceInfo : receives (.rspDeviceinfo repDI1) = true ∧
    ∃ t, exec (.rspDeviceinfo repDI1) State.reset = .next t ∧ t.dsm.deviceInfo ≠ State.reset.dsm.deviceInfo ∧ State.reset.phase ≠ .awaitingReply := ⟨rfl, _, rfl, by decide⟩
theorem witness_DecodeTouchesAtMostTheNamedRecord_systemInfo : receives (.rspSysteminfo repSI1) = true ∧
    ∃ t, exec (.rspSysteminfo repSI1) State.reset = .next t ∧ t.dsm.systemInfo ≠ State.reset.dsm.systemInfo ∧ State.reset.phase ≠ .awaitingReply := ⟨rfl, _, rfl, by decide⟩
theorem witness_DecodeTouchesAtMostTheNamedRecord_basicSet : receives (.rspBasicset repBS1) = true ∧
    ∃ t, exec (.rspBasicset repBS1) State.reset = .next t ∧ t.dsm.basicSet ≠ State.reset.dsm.basicSet ∧ State.reset.phase ≠ .awaitingReply := ⟨rfl, _, rfl, by decide⟩
theorem witness_ReplyRowsAreDecodeOfTheirBuffer : WellFormed (.rspUnassigned 0xFF#8 repFF) = true ∧
    replyOf (.rspUnassigned 0xFF#8 repFF) = some (0xFF#8, repFF) ∧
    WellFormed (.rspBasicsetAck repAck) = true ∧ replyOf (.rspBasicsetAck repAck) = some (0x35#8, repAck) := by decide
theorem witness_UnvouchedReplyIsCrcError :
    replyOf (.rspNone (reply [] 0#16))
      = some (0x00#8, reply [] 0#16) ∧ ¬ Vouched 0x00#8 (reply [] 0#16) := by unfold Vouched; decide
theorem witness_BasicInfoReplyReplacesItsRecord : Vouched 0x30#8 repBI3 ∧ repBI3.payload.length = 16 ∧
    Vouched 0x30#8 repBI15 ∧ repBI15.payload.length = 15 ∧ Vouched 0x30#8 repBI17 ∧ repBI17.payload.length = 17 := by unfold Vouched; decide
theorem witness_DeviceInfoReplyReplacesItsRecord :
    Vouched 0x10#8 repDI1 ∧ repDI1.payload.length = 38 ∧ utf8Wellformed (devtypeText repDI1.payload) = true ∧
    Vouched 0x10#8 repDI3 ∧ repDI3.payload.length = 38 ∧ utf8Wellformed (devtypeText repDI3.payload) = false ∧
    Vouched 0x10#8 repDI37 ∧ repDI37.payload.length = 37 := by unfold Vouched; decide
theorem witness_SystemInfoReplyReplacesItsRecord :
    Vouched 0x40#8 repSI1 ∧ repSI1.payload.length = 6 ∧ Vouched 0x40#8 repSI5 ∧
      repSI5.payload.length = 5 := by unfold Vouched; decide
theorem witness_BasicSetReplyReplacesItsRecord :
    Vouched 0x35#8 repBS1 ∧ repBS1.payload.length = 10 := by unfold Vouched; decide
theorem witness_AcknowledgementUpdatesNoField :
    Vouched 0x35#8 repAck ∧ repAck.payload = [1#8] ∧ Vouched 0x35#8 repNak ∧
      repNak.payload = [0#8] := by unfold Vouched; decide
theorem witness_OtherBasicSetLengthsViolate :
    Vouched 0x35#8 repBS0 ∧ repBS0.payload.length = 0 ∧ Vouched 0x35#8 repBS2 ∧
      repBS2.payload.length = 2 := by unfold Vouched; decide
/-- The last two: V-DEC-18 -/
theorem witness_CodesWithoutExtractorAreUnrecognized :
    Vouched 0x00#8 repNone ∧ Vouched 0x50#8 repScan ∧ Vouched 0x55#8 repSerial ∧
    (0xFF#8 ∉ [0x00#8, 0x10#8, 0x30#8, 0x35#8, 0x40#8, 0x50#8, 0x55#8] ∧ Vouched 0xFF#8 repFF) ∧
    Intact (hex [0xFA, 0x11, 0x00, 0x00, 0x60, 0xF9]) ∧
    byteAt (hex [0xFA, 0x11, 0x00, 0x00, 0x60, 0xF9]) 1 ∉ [0x10#8, 0x30#8, 0x35#8, 0x40#8] := by unfold Vouched Intact; decide
/-- V-DI-1, and a field of fifteen letters -/
theorem witness_TextEndsAtTheFirstZeroOfItsField :
    (payDI1.take 15 = hex [0x44, 0x50, 0x31, 0x30, 0x30] ++ 0#8 :: List.replicate 9 0#8 ∧
      0#8 ∉ hex [0x44, 0x50, 0x31, 0x30, 0x30]) ∧
    0#8 ∉ (List.replicate 15 0x41#8 ++ [0x0A#8]).take 15 := by decide
theorem witness_NewInstanceStartsFromReset :
    TakesMoves (at_ .awaitingReply [.act .reset]) ∧
      (at_ .awaitingReply [.act .reset]).moves = .act .reset :: [] := ⟨⟨by decide, by decide⟩, rfl⟩
theorem inv_at (p : Phase) (m : List HostMove) : Safety.Inv (at_ p m) :=
  ⟨(⟨by decide, by decide, by decide⟩ : Safety.TextLegal []), (by decide : (List.replicate 11 0#8).length = 11), rfl⟩
theorem witness_EveryStepKeepsTheInvariant : Safety.Inv (at_ .awaitingReply [.issue (.frame bufAck)]) ∧
    ∃ t, step (at_ .awaitingReply [.issue (.frame bufAck)]) = .next t := ⟨inv_at _ _, _, rfl⟩
theorem witness_OnlyDecodeOrResetWritesRecordsAndResult :
    (∃ t, step (at_ .idle [.issue (.frame bufAck)]) = .next t ∧ t.result ≠ (at_ .idle []).result) ∧
    ∃ t, step { at_ .idle [.act .reset] with result := ⟨.updated, 0x35#8⟩ } = .next t ∧
      t.result ≠ ⟨.updated, 0x35#8⟩ := ⟨⟨_, rfl, by decide⟩, _, rfl, by decide⟩
theorem witness_PhaseMovesAlongTheCycleOnly :
    (∃ t, step (at_ .frameSent [.act .recv]) = .next t) ∧ TakesMoves (at_ .frameSent [.act .recv]) ∧
    (∃ t, step (at_ .rejected []) = .next t) ∧ ¬ TakesMoves (at_ .rejected []) ∧
    (∃ t, step (at_ .awaitingReply [.act .reset]) = .next t) ∧ TakesMoves (at_ .awaitingReply [.act .reset]) := ⟨⟨_, rfl⟩, ⟨by decide, by decide⟩, ⟨_, rfl⟩, fun h => h.2 rfl, ⟨_, rfl⟩, ⟨by decide, by decide⟩⟩
theorem witness_PhaseMovesAlongTheCycleOnly_send :
    TakesMoves (at_ .frameSent [.act (.send [])]) ∧ (at_ .frameSent [.act (.send [])]).moves = .act (.send []) :: [] ∧
    ∃ t, step (at_ .frameSent [.act (.send [])]) = .next t := ⟨⟨by decide, by decide⟩, rfl, _, rfl⟩
theorem witness_PhaseMovesAlongTheCycleOnly_issue :
    TakesMoves (at_ .awaitingReply [.issue (.frame bufAck)]) ∧
      (at_ .awaitingReply [.issue (.frame bufAck)]).moves = .issue (.frame bufAck) :: [] ∧
    ∃ t, step (at_ .awaitingReply [.issue (.frame bufAck)]) = .next t := ⟨⟨by decide, by decide⟩, rfl, _, rfl⟩
theorem witness_PhaseMovesAlongTheCycleOnly_read :
    TakesMoves (at_ .awaitingReply [.act (.read .vin)]) ∧
      (at_ .awaitingReply [.act (.read .vin)]).moves = .act (.read .vin) :: [] ∧
    ∃ t, step (at_ .awaitingReply [.act (.read .vin)]) = .next t := ⟨⟨by decide, by decide⟩, rfl, _, rfl⟩
theorem witness_PhaseMovesAlongTheCycleOnly_readFails :
    TakesMoves (at_ .awaitingReply [.act .readFails]) ∧
      (at_ .awaitingReply [.act .readFails]).moves = .act .readFails :: [] ∧
    ∃ t, step (at_ .awaitingReply [.act .readFails]) = .next t := ⟨⟨by decide, by decide⟩, rfl, _, rfl⟩
/-- The moves of one cycle: V-ENC-8 sent, V-BS-2 read. -/
def cycleMoves : List HostMove :=
  [.act (.send (hex [0xFB, 0x35, 0x00, 0x01, 0x80, 0xCE, 0x28])), .act .recv, .issue (.frame bufAck)]
theorem witness_OneCyclePassesThroughItsPhases : (at_ .idle cycleMoves).phase = .idle ∧ (at_ .idle cycleMoves).moves =
      .act (.send (hex [0xFB, 0x35, 0x00, 0x01, 0x80, 0xCE, 0x28])) :: .act .recv :: .issue (.frame bufAck) :: [] ∧
    builtByEncode (hex [0xFB, 0x35, 0x00, 0x01, 0x80, 0xCE, 0x28]) = true ∧
    decode (.frame bufAck) = .ok (.rspBasicsetAck repAck) ∧ receives (.rspBasicsetAck repAck) = true := ⟨rfl, rfl, by decide, rfl, rfl⟩
theorem witness_OrderlyMovesAdvanceThePhase_send : TakesMoves (at_ .idle cycleMoves) ∧
    Safety.HostKeepsOrder (at_ .idle cycleMoves) (.act (.send (hex [0xFB, 0x35, 0x00, 0x01, 0x80, 0xCE, 0x28]))) ∧
    ∃ t, step (at_ .idle cycleMoves) = .next t := ⟨⟨by decide, by decide⟩, ⟨rfl, by decide⟩, _, rfl⟩
theorem witness_OrderlyMovesAdvanceThePhase_recv : TakesMoves (at_ .frameSent [.act .recv]) ∧
    Safety.HostKeepsOrder (at_ .frameSent [.act .recv]) (.act .recv) ∧
    ∃ t, step (at_ .frameSent [.act .recv]) = .next t := ⟨⟨by decide, by decide⟩, rfl, _, rfl⟩
/-- a buffer of 6 bytes is within RXBUF_SIZE whatever that is -/
theorem witness_OrderlyMovesAdvanceThePhase_decode :
    TakesMoves (at_ .awaitingReply [.issue (.command 3#2 (hex [0xFA, 0x11, 0x00, 0x00, 0x60, 0xF9]))]) ∧
    Safety.HostKeepsOrder (at_ .awaitingReply [.issue (.command 3#2 (hex [0xFA, 0x11, 0x00, 0x00, 0x60, 0xF9]))])
      (.issue (.command 3#2 (hex [0xFA, 0x11, 0x00, 0x00, 0x60, 0xF9]))) ∧
    ∃ t, step (at_ .awaitingReply [.issue (.command 3#2 (hex [0xFA, 0x11, 0x00, 0x00, 0x60, 0xF9]))]) = .next t := ⟨⟨by decide, by decide⟩, ⟨rfl, Nat.le_add_right 6 _⟩, _, rfl⟩
/-- V-DEC-18 as a frame packet -/
theorem witness_OrderlyMovesAdvanceThePhase_frame : byteAt (hex [0xFA, 0x11, 0x00, 0x00, 0x60, 0xF9]) 0 ≠ 0xFB#8 ∧
    TakesMoves (at_ .awaitingReply [.issue (.frame (hex [0xFA, 0x11, 0x00, 0x00, 0x60, 0xF9]))]) ∧
    Safety.HostKeepsOrder (at_ .awaitingReply [.issue (.frame (hex [0xFA, 0x11, 0x00, 0x00, 0x60, 0xF9]))])
      (.issue (.frame (hex [0xFA, 0x11, 0x00, 0x00, 0x60, 0xF9]))) ∧
    ∃ t, step (at_ .awaitingReply [.issue (.frame (hex [0xFA, 0x11, 0x00, 0x00, 0x60, 0xF9]))]) = .next t := ⟨by decide, ⟨by decide, by decide⟩, fun _ => ⟨rfl, Nat.le_add_right 6 _⟩, _, rfl⟩
theorem witness_NoCommandReadsThePhase : ∃ t, exec (.decode bufAck) (at_ .awaitingReply []) = .next t := ⟨_, rfl⟩
theorem witness_TransportFailureLeavesTheCodecAlone : TakesMoves (at_ .awaitingReply [.act .readFails]) ∧
    (at_ .awaitingReply [.act .readFails]).moves = .act .readFails :: [] ∧
    TakesMoves (at_ .awaitingReply [.act .readHangs]) ∧
    (at_ .awaitingReply [.act .readHangs]).moves = .act .readHangs :: [] := ⟨⟨by decide, by decide⟩, rfl, ⟨by decide, by decide⟩, rfl⟩
theorem witness_HostReadReturnsWhatDecodeWrote :
    TakesMoves (at_ .frameSent [.act (.read .opp)]) ∧
      (at_ .frameSent [.act (.read .opp)]).moves = .act (.read .opp) :: [] := ⟨⟨by decide, by decide⟩, rfl⟩
theorem witness_HostReadReturnsWhatDecodeWrote_idle : receives (.rspBasicinfo repBI3) = true ∧ Vouched 0x30#8 repBI3 ∧
    repBI3.payload.length = 16 ∧ (.workSt, .num 8 2) ∈ basicInfoReads repBI3.payload ∧
    ∃ t, exec (.rspBasicinfo repBI3) (at_ .idle [.act (.read .workSt)]) = .next t ∧ t.moves = .act (.read .workSt) :: [] ∧
      TakesMoves t := ⟨rfl, by unfold Vouched; decide, by decide, by decide, _, rfl, rfl, ⟨by decide, by decide⟩⟩
theorem witness_HostReadReturnsWhatDecodeWrote_awaitingReply :
    receives (.rspBasicinfo repBI3) = true ∧ Vouched 0x30#8 repBI3 ∧
    repBI3.payload.length = 16 ∧ (.workSt, .num 8 2) ∈ basicInfoReads repBI3.payload ∧
    ∃ t, exec (.rspBasicinfo repBI3) (at_ .awaitingReply [.act (.read .workSt)]) = .next t ∧ t.moves = .act (.read .workSt) :: [] ∧
      ¬ TakesMoves t := ⟨rfl, by unfold Vouched; decide, by decide, by decide, _, rfl, rfl, fun h => h.1 rfl⟩
theorem witness_AcceptedPacketsAreWellFormed :
    decode (.frame (hex [0xFB, 0x35, 0x00, 0x01, 0x80, 0xCE, 0x28])) = .ok (.reqBasicsetActivate 0x80#8) := rfl
theorem witness_RequestRowNeedsItsPayloadCondition : (hex [0x20, 1, 0, 0, 0, 0, 0, 0, 0, 0]).length = 10 ∧
    (byteAt (hex [0x20, 1, 0, 0, 0, 0, 0, 0, 0, 0]) 0 = 0x20#8 ∧ byteAt (hex [0x20, 1, 0, 0, 0, 0, 0, 0, 0, 0]) 1 = 1#8) ∧
    (hex [0x20, 2, 0, 0, 0, 0, 0, 0, 0, 0]).length = 10 ∧ byteAt (hex [0x20, 2, 0, 0, 0, 0, 0, 0, 0, 0]) 1 ≠ 0#8 ∧
    byteAt (hex [0x20, 2, 0, 0, 0, 0, 0, 0, 0, 0]) 1 ≠ 1#8 := by decide

end Sys2Proof.Tests
end

/-! SUPPORT. What each kind of move does to the state, for every operand and every state, and the statements on the
state settled from it (10_state.md). -/

namespace Sys2Proof.Proofs

open Sys2Proof Sys2Proof.Machine Sys2Proof.Claims

/-! ### The end of a DECODE in one form -/

/-- A DECODE ends on an extractor's answer, or on the error that kept it from one: 60_exceptions.md R232 and
42_frame_parse.md R179 in one. -/
def endDecode (s : State) (x : Except ResultKind Update) (op : Byte) (view : Option View) : State :=
  (s.setDsm (endDsm s.dsm x)).conclude (endKind x) op view

@[simp] theorem endDecode_dsm (s : State) (x : Except ResultKind Update) (op : Byte) (view : Option View) :
    (endDecode s x op view).dsm = endDsm s.dsm x := rfl
@[simp] theorem endDecode_result (s : State) (x : Except ResultKind Update) (op : Byte) (view : Option View) :
    (endDecode s x op view).result = resultOf (endKind x) op := rfl
@[simp] theorem endDecode_phase (s : State) (x : Except ResultKind Update) (op : Byte) (view : Option View) :
    (endDecode s x op view).phase = phaseAfter (endKind x) s.phase := rfl
@[simp] theorem endDecode_out (s : State) (x : Except ResultKind Update) (op : Byte) (view : Option View) :
    (endDecode s x op view).out = .decoded (resultOf (endKind x) op) view := rfl
@[simp] theorem endDecode_moves (s : State) (x : Except ResultKind Update) (op : Byte) (view : Option View) :
    (endDecode s x op view).moves = s.moves := rfl

/-- PHASE after a DECODE, for every kind and phase, 92_eei_decisions.md D14. -/
theorem phaseAfter_eq (k : ResultKind) (p : Phase) :
    phaseAfter k p = if p = .awaitingReply then (if k = .updated then .decoded else .rejected) else p := by
  cases p <;> rfl

/-- The operation code of the replies that an update comes from, 42_frame_parse.md R177. -/
def updateOp : Update → Byte
  | .deviceInfo _ => 0x10#8
  | .basicInfo _ => 0x30#8
  | .basicSet _ | .acknowledged => 0x35#8
  | .systemInfo _ => 0x40#8

/-- An update changes no record but the one of its operation code, 10_state.md R21. -/
theorem updateOp_of_apply_ne (d : Dsm) (u : Update) :
    ((d.apply u).deviceInfo ≠ d.deviceInfo → updateOp u = 0x10#8) ∧
    ((d.apply u).basicInfo ≠ d.basicInfo → updateOp u = 0x30#8) ∧
    ((d.apply u).basicSet ≠ d.basicSet → updateOp u = 0x35#8) ∧
    ((d.apply u).systemInfo ≠ d.systemInfo → updateOp u = 0x40#8) := by
  cases u <;> simp [updateOp]

/-- An answer's update, if it is one, is of the record that the operation code names. -/
def OwnRecord (op : Byte) (x : Except ResultKind Update) : Prop := ∀ u, x = .ok u → updateOp u = op

theorem ownRecord_error (op : Byte) (k : ResultKind) : OwnRecord op (.error k) := nofun

theorem ownRecord_of_answers {op : Byte} {x : Except ResultKind Update} (h : Answers op x) : OwnRecord op x := by
  rcases h with ⟨rfl, -⟩ | ⟨rfl, -⟩ | ⟨rfl, -⟩ | ⟨rfl, d, rfl, -⟩ | ⟨rfl, b, rfl⟩ | ⟨rfl, ⟨b, rfl⟩ | rfl⟩ |
    ⟨rfl, b, rfl⟩ <;> rintro u ⟨⟩ <;> rfl

/-! ### What a receiving instruction does -/

/-- The meaning ends a DECODE, and what it ends on does not depend on the state. -/
def EndsDecode (f : State → Host.Outcome State Fault Refusal) : Prop :=
  ∃ x op view, OwnRecord op x ∧ ∀ s, f s = .next (endDecode s x op view)

theorem execDecode_endsDecode (rx : List Byte) : EndsDecode (execDecode rx) := by
  cases hp : parse rx with
  | error k => exact ⟨.error k, 0#8, none, ownRecord_error _ k, fun s => by rw [execDecode_eq, hp]; rfl⟩
  | ok v =>
    exact ⟨dispatch v, v.op, some v, ownRecord_of_answers (dispatch_answers v), fun s => by
      rw [execDecode_eq, hp]; rfl⟩

/-- A reply whose checksum is right ends on the extractor's answer. -/
theorem checkedReply_of_vouched {op : Byte} {r : Reply} (h : Vouched op r) (x : Except ResultKind Update) (s : State) :
    checkedReply op r x s = endDecode s x op (some (viewOf op r)) :=
  (checkedReply_eq op r x s).trans (if_pos h)

/-- A reply whose checksum is wrong ends on CrcError, whatever the extractor would have answered. -/
theorem checkedReply_of_not_vouched {op : Byte} {r : Reply} (h : ¬ Vouched op r) (x : Except ResultKind Update)
    (s : State) : checkedReply op r x s = endDecode s (.error .crcError) 0#8 none :=
  (checkedReply_eq op r x s).trans (if_neg h)

theorem checkedReply_endsDecode {op : Byte} {x : Except ResultKind Update} (r : Reply) (hx : OwnRecord op x) :
    EndsDecode (fun s => .next (checkedReply op r x s)) := by
  by_cases h : Vouched op r
  · exact ⟨x, op, _, hx, fun s => congrArg _ (checkedReply_of_vouched h x s)⟩
  · exact ⟨_, 0#8, none, ownRecord_error _ _, fun s => congrArg _ (checkedReply_of_not_vouched h x s)⟩

/-- Every receiving instruction, for every operand: a reply row is run as it stands, well-formed or not, so here a term
of RSP.UNASSIGNED may carry an assigned operation code, which `DecodeEnds` leaves out. -/
theorem exec_endsDecode_of_receives {i : Instr} (h : receives i = true) : EndsDecode (exec i) := by
  cases i with
  | decode rx => exact execDecode_endsDecode rx
  | rspDeviceinfo r | rspBadlenDeviceinfo r =>
    exact checkedReply_endsDecode r (ownRecord_of_answers (xDeviceinfo_answers _))
  | rspBasicinfo r | rspBadlenBasicinfo r =>
    exact checkedReply_endsDecode r (ownRecord_of_answers (xBasicinfo_answers _))
  | rspBasicset r | rspBasicsetAck r | rspBadlenBasicset r =>
    exact checkedReply_endsDecode r (ownRecord_of_answers (xBasicset_answers _))
  | rspSysteminfo r | rspBadlenSysteminfo r =>
    exact checkedReply_endsDecode r (ownRecord_of_answers (xSysteminfo_answers _))
  | rspNone r | rspScanout r | rspSerialout r => exact checkedReply_endsDecode r (ownRecord_error _ _)
  | rspUnassigned op r => exact checkedReply_endsDecode r (ownRecord_error _ _)
  | _ => cases h

/-- A receiving instruction that answers next has ended a DECODE. -/
theorem exec_next_of_receives {i : Instr} {s t : State} (hi : receives i = true) (h : exec i s = .next t) :
    ∃ x op view, OwnRecord op x ∧ t = endDecode s x op view := by
  obtain ⟨x, op, view, hx, he⟩ := exec_endsDecode_of_receives hi
  exact ⟨x, op, view, hx, Host.Outcome.next.inj (h.symm.trans (he s))⟩

/-- Settles O33: one end of a DECODE serves every receiving instruction, and its update is of the named record. -/
theorem decodeTouchesAtMostTheNamedRecord : Obligations.DecodeTouchesAtMostTheNamedRecord := by
  unfold Obligations.DecodeTouchesAtMostTheNamedRecord
  intro i s t hi h
  obtain ⟨x, op, view, hx, rfl⟩ := exec_next_of_receives hi h
  have hphase := phaseAfter_eq (endKind x) s.phase
  cases x with
  | error k => exact ⟨absurd rfl, absurd rfl, absurd rfl, absurd rfl, rfl, hphase⟩
  | ok u =>
    obtain rfl := hx u rfl
    obtain ⟨hdev, hinfo, hset, hsys⟩ := updateOp_of_apply_ne s.dsm u
    have named {op : Byte} (ho : updateOp u = op) : resultOf .updated (updateOp u) = ⟨.updated, op⟩ :=
      congrArg (Result.mk .updated) ho
    exact ⟨named ∘ hdev, named ∘ hinfo, named ∘ hset, named ∘ hsys, rfl, hphase⟩

/-! ### What the other instructions do -/

theorem setOut_of_buildRequest (op : Byte) (pay : List Byte) {s t : State} (h : buildRequest op pay s = .next t) :
    ∃ o, t = s.setOut o :=
  ⟨_, (buildRequest_next op pay s t h).2⟩

/-- An instruction that does not receive hands something back and does nothing else, 10_state.md R26. -/
theorem exec_next_of_not_receives {i : Instr} {s t : State} (hi : receives i = false) (h : exec i s = .next t) :
    ∃ o, t = s.setOut o := by
  cases i with
  | crc16 _ | genSet _ _ _ _ _ => exact ⟨_, (Host.Outcome.next.inj h).symm⟩
  | encode op pay => exact setOut_of_buildRequest op pay h
  | reqNone pay => exact setOut_of_buildRequest Params.opNone pay h
  | reqDeviceinfo => exact setOut_of_buildRequest Params.opDeviceinfo [] h
  | reqBasicinfo => exact setOut_of_buildRequest Params.opBasicinfo [] h
  | reqBasicsetModify mode en v cur ovp ocp =>
    exact setOut_of_buildRequest Params.opBasicset (basicsetPayload mode en v cur ovp ocp) h
  | reqBasicsetActivate mode => exact setOut_of_buildRequest Params.opBasicset [mode] h
  | reqSysteminfo => exact setOut_of_buildRequest Params.opSysteminfo [] h
  | reqScanout pay => exact setOut_of_buildRequest Params.opScanout pay h
  | reqSerialout pay => exact setOut_of_buildRequest Params.opSerialout pay h
  | _ => cases hi

/-- Settles O21: these instructions change the field `out` alone. -/
theorem buildersLeaveTheCodecAlone : Obligations.BuildersLeaveTheCodecAlone := by
  unfold Obligations.BuildersLeaveTheCodecAlone
  intro i s t hi h
  obtain ⟨o, rfl⟩ := exec_next_of_not_receives hi h
  exact ⟨rfl, rfl, rfl, rfl⟩

/-! ### What the host's acts do -/

/-- An act of the host's other than reset leaves the records and RESULT, 10_state.md R26. -/
theorem hostAct_keeps_codec {a : HostAct} {s t : State} (ha : a ≠ .reset) (h : hostAct a s = .next t) :
    t.dsm = s.dsm ∧ t.result = s.result := by
  cases a with
  | reset => exact absurd rfl ha
  | readHangs => cases h
  | send _ | recv | read _ | readFails => cases h; exact ⟨rfl, rfl⟩

/-- Settles O49: of the ways a step can go, only a receiving packet and a reset can write. -/
theorem onlyDecodeOrResetWritesRecordsAndResult : Obligations.OnlyDecodeOrResetWritesRecordsAndResult := by
  unfold Obligations.OnlyDecodeOrResetWritesRecordsAndResult
  intro s t h hne
  have changed : ¬ (t.dsm = s.dsm ∧ t.result = s.result) := not_and_or.mpr hne
  rcases step_cases s t h with ⟨-, rfl⟩ | ⟨-, -, rfl⟩ | ⟨-, p, rest, i, hm, hd, he, -⟩ | ⟨-, a, rest, hm, ha⟩
  · exact absurd ⟨rfl, rfl⟩ changed
  · exact absurd ⟨rfl, rfl⟩ changed
  · cases hi : receives i with
    | true => exact .inl ⟨p, rest, i, hm, hd, hi⟩
    | false =>
      obtain ⟨o, rfl⟩ := exec_next_of_not_receives hi he
      exact absurd ⟨rfl, rfl⟩ changed
  · by_cases hr : a = .reset
    · exact .inr ⟨rest, hr ▸ hm⟩
    · exact absurd (hostAct_keeps_codec hr ha) changed

/-! ### Reset -/

/-- A text field that begins with a zero byte holds the empty text. -/
theorem devtypeText_zero_cons (p : List Byte) : devtypeText (0#8 :: p) = [] :=
  upToZero_append_zero [] _ List.not_mem_nil

/-- Settles O45: the records by evaluation, the text because its first byte ends it. -/
theorem resetZeroesEveryRecord : Obligations.ResetZeroesEveryRecord :=
  ⟨rfl, fun _ => devtypeText_zero_cons _⟩

/-! ### The host's reads -/

theorem takesMoves_iff (s : State) : TakesMoves s ↔ cycleOver s.phase = false := by
  simp [TakesMoves, cycleOver]

theorem step_of_not_takesMoves {s : State} (h : ¬ TakesMoves s) : step s = .next (s.setPhase .idle) :=
  if_pos (by simpa [takesMoves_iff] using h)

theorem step_act {s : State} {a : HostAct} {rest : List HostMove} (h : TakesMoves s) (hm : s.moves = .act a :: rest) :
    step s = hostAct a (s.setMoves rest) := by
  rw [takesMoves_iff] at h
  simp [step, h, hm]

/-- A register's value is the field it names: the widths in the parameters are the defaults, 92_eei_decisions.md D6. -/
theorem readRegister_eq_namedField (s : State) (x : Register) : readRegister s x = namedField s x := by
  cases x <;> rfl

/-- What a register names depends on the records and RESULT alone. -/
theorem namedField_congr {s t : State} (hd : t.dsm = s.dsm) (hr : t.result = s.result) (x : Register) :
    namedField t x = namedField s x := by
  cases x <;> simp only [namedField, hd, hr]

theorem step_read {s : State} {x : Register} {rest : List HostMove} (h : TakesMoves s)
    (hm : s.moves = .act (.read x) :: rest) :
    step s = .next { s with out := .reg (namedField s x), moves := rest } := by
  have hread : readRegister (s.setMoves rest) x = namedField s x :=
    (readRegister_eq_namedField _ x).trans (namedField_congr rfl rfl x)
  rw [step_act h hm, hostAct, hread]
  rfl

/-- The nine fields of a basic-info reply, 30_encoding.md R102. -/
theorem xBasicinfo_ok {p : List Byte} (h : p.length = 16) : xBasicinfo p = .ok (.basicInfo
    { vin := field p 0, vout := field p 2, iout := field p 4, voMax := field p 6, temp1 := field p 8,
      temp2 := field p 10, auxV := field p 12, outMode := byteAt p 14, workSt := byteAt p 15 }) :=
  if_neg (by simp [Params.basicInfo, h])

theorem namedField_of_basicInfo_reply {r : Reply} {s t : State} (hv : Vouched 0x30#8 r) (hl : r.payload.length = 16)
    (h : exec (.rspBasicinfo r) s = .next t) : ∀ e ∈ basicInfoReads r.payload, namedField t e.1 = e.2 := by
  obtain rfl : endDecode s (xBasicinfo r.payload) 0x30#8 (some (viewOf 0x30#8 r)) = t :=
    (checkedReply_of_vouched hv _ s).symm.trans (Host.Outcome.next.inj h)
  rw [xBasicinfo_ok hl]
  simp only [basicInfoReads, List.forall_mem_cons]
  exact ⟨rfl, rfl, rfl, rfl, rfl, rfl, rfl, rfl, rfl, rfl, nofun⟩

/-- Settles O55: a read is one rule of the step; after a DECODE that ended a cycle it comes one step later, and the step
to Idle moves PHASE alone. -/
theorem hostReadReturnsWhatDecodeWrote : Obligations.HostReadReturnsWhatDecodeWrote := by
  unfold Obligations.HostReadReturnsWhatDecodeWrote
  refine ⟨fun s x rest => step_read, fun i s t x rest _ _ hm => ⟨fun ht => step_read ht hm, fun ht => ?_⟩,
    fun r s t => namedField_of_basicInfo_reply⟩
  have hidle : TakesMoves { t with phase := .idle } := (takesMoves_iff _).mpr rfl
  have hfield : namedField { t with phase := .idle } x = namedField t x := namedField_congr rfl rfl x
  exact ⟨step_of_not_takesMoves ht, hfield ▸ step_read hidle hm⟩

end Sys2Proof.Proofs

/-! SUPPORT. The statements on what a frame's row asks for (30_encoding.md): a reply row whose checksum is wrong, and
the payload bytes of a basic-set request. -/

namespace Sys2Proof.Proofs

open Sys2Proof Sys2Proof.Machine Sys2Proof.Claims

/-! ### A reply row whose checksum is wrong -/

/-- A DECODE that ends in an error rejects, 60_exceptions.md R232. -/
theorem endDecode_error {k : ResultKind} (hk : k ≠ .updated) (s : State) (op : Byte) (view : Option View) :
    endDecode s (.error k) op view = rejects s (resultOf k op) view :=
  congrArg (fun p => { s with result := resultOf k op, phase := p, out := .decoded (resultOf k op) view })
    (phaseAfter_error k s.phase hk)

/-- Every reply row judges the checksum of its own buffer, then ends on an answer that does not depend on the state. -/
theorem exec_of_replyOf {i : Instr} {op : Byte} {r : Reply} (h : replyOf i = some (op, r)) :
    ∃ x, ∀ s, exec i s = .next (checkedReply op r x s) := by
  cases i with
  | rspDeviceinfo _ | rspBasicinfo _ | rspBasicset _ | rspBasicsetAck _ | rspSysteminfo _ | rspBadlenDeviceinfo _
  | rspBadlenBasicinfo _ | rspBadlenBasicset _ | rspBadlenSysteminfo _ | rspNone _ | rspScanout _ | rspSerialout _
  | rspUnassigned _ _ => cases h; exact ⟨_, fun _ => rfl⟩
  | _ => cases h

/-- Settles O35: a reply row runs through the checksum test, which turns the reply away before its extractor's answer
counts. -/
theorem unvouchedReplyIsCrcError : Obligations.UnvouchedReplyIsCrcError := by
  unfold Obligations.UnvouchedReplyIsCrcError
  intro i op r s hr hv
  obtain ⟨x, hx⟩ := exec_of_replyOf hr
  calc exec i s = .next (checkedReply op r x s) := hx s
    _ = .next (endDecode s (.error .crcError) 0#8 none) := congrArg _ (checkedReply_of_not_vouched hv x s)
    _ = .next (rejects s ⟨.crcError, 0#8⟩ none) := congrArg _ (endDecode_error (by decide) s 0#8 none)

/-! ### The payload bytes of a basic-set request -/

/-- A request frame with the length byte its payload asks for is read by its row, whatever its two checksum bytes are
(log entry 7). -/
theorem decode_requestFrame (op len : Byte) (p : List Byte) (c0 c1 : Byte) (h : p.length = len.toNat) :
    decode (.frame ([0xFB#8, op, 0x00#8, len] ++ p ++ [c0, c1])) = .ok (requestInstr op len p) := by
  have hlen : (p ++ [c0, c1]).length = len.toNat + 2 := by simp [h]
  calc decode (.frame ([0xFB#8, op, 0x00#8, len] ++ p ++ [c0, c1]))
    _ = decodeRequest op 0#8 len (p ++ [c0, c1]) := rfl
    _ = .ok (requestInstr op len ((p ++ [c0, c1]).take len.toNat)) := decodeRequest_ok op len _ hlen
    _ = .ok (requestInstr op len p) := by rw [← h, List.take_left]

/-- The model's word at an offset is the claims' field there, 30_encoding.md R99. -/
theorem le16At_eq_field (p : List Byte) (o : Nat) : le16At p o = field p o := rfl

/-- The two rows of a basic-set request, with the bytes that R107 and R108 of 30_encoding.md ask for. -/
theorem requestInstr_basicset (len : Byte) (p : List Byte) :
    requestInstr 0x35#8 len p =
      if len = 10#8 ∧ byteAt p 0 = 0x20#8 ∧ (byteAt p 1 = 0#8 ∨ byteAt p 1 = 1#8) then
        .reqBasicsetModify (byteAt p 0) (byteAt p 1) (field p 2) (field p 4) (field p 6) (field p 8)
      else if len = 1#8 ∧ byteAt p 0 = 0x80#8 then .reqBasicsetActivate (byteAt p 0)
      else .encode 0x35#8 p := by
  simp [requestInstr, settingsBytes_iff, queryByte_iff, le16At_eq_field]

/-- Settles O57: the frame reaches the rows of its operation code, and its length byte leaves one of the two. -/
theorem requestRowNeedsItsPayloadCondition : Obligations.RequestRowNeedsItsPayloadCondition := by
  unfold Obligations.RequestRowNeedsItsPayloadCondition
  constructor
  · intro b c0 c1
    refine (decode_requestFrame 0x35#8 1#8 [b] c0 c1 rfl).trans (congrArg _ ?_)
    simp [requestInstr_basicset, byteAt]
  · intro p c0 c1 h
    refine (decode_requestFrame 0x35#8 10#8 p c0 c1 h).trans (congrArg _ ?_)
    simp [requestInstr_basicset]

end Sys2Proof.Proofs

/-! SUPPORT. The statements on the checksum unit (40_crc.md): a byte's turn in its table form, and that a turn loses
nothing of the register. -/

namespace Sys2Proof.Proofs

open Sys2Proof Sys2Proof.Machine Sys2Proof.Claims

theorem byteTurn_eq_turns8 (c : Word) (b : Byte) : byteTurn c b = turns8 (c ^^^ b.setWidth 16) := rfl

theorem crc16_eq_foldl_byteTurn (d : List Byte) : crc16 d = d.foldl byteTurn 0xFFFF#16 := crc16_eq_foldl d

/-- The command hands the checksum back and writes nothing else, 40_crc.md R133. -/
theorem exec_crc16 (d : List Byte) (s : State) : exec (.crc16 d) s = .next { s with out := .crc (crc16 d) } := rfl

/-! ### The table-driven form -/

theorem tableEntry_eq_turns8 (i : Byte) : tableEntry i = turns8 (i.setWidth 16) := by
  rw [tableEntry, byteTurn_eq_turns8, BitVec.zero_xor]

/-- The byte enters the register's low half alone: the high half is only shifted, and the low half picks the table
entry, 40_crc.md R132. -/
theorem byteTurn_eq_tableEntry (c : Word) (b : Byte) :
    byteTurn c b = (c >>> 8) ^^^ tableEntry (c.setWidth 8 ^^^ b) := by
  have high : (c ^^^ b.setWidth 16) >>> 8 = c >>> 8 := by
    have : b.setWidth 16 >>> 8 = 0#16 := by ext i hi; simp
    rw [BitVec.ushiftRight_xor_distrib, this, BitVec.xor_zero]
  have low : (c ^^^ b.setWidth 16).setWidth 8 = c.setWidth 8 ^^^ b := by
    rw [BitVec.setWidth_xor, BitVec.setWidth_setWidth_of_le _ (by decide), BitVec.setWidth_eq]
  rw [byteTurn_eq_turns8, turns8_split, high, low, tableEntry_eq_turns8]

theorem crc16_eq_tableCrc (d : List Byte) : crc16 d = tableCrc d := by
  rw [crc16_eq_foldl_byteTurn, tableCrc, funext₂ byteTurn_eq_tableEntry]

/-- Settles O9: the two forms agree turn by turn, and the three entries are evaluated. -/
theorem crc16ReturnsTheTableDrivenChecksum : Obligations.Crc16ReturnsTheTableDrivenChecksum := by
  unfold Obligations.Crc16ReturnsTheTableDrivenChecksum
  refine ⟨fun d s => ?_, by decide, by decide, by decide⟩
  rw [exec_crc16, crc16_eq_tableCrc]

/-! ### The byte loop -/

/-- The turns are linear and only zero gives zero. -/
theorem turns8_injective : Function.Injective turns8 := fun a b h =>
  BitVec.xor_eq_zero_iff.mp (turns8_eq_zero _ (by rw [turns8_xor, h, BitVec.xor_self]))

theorem byteTurn_injective (b : Byte) : Function.Injective (byteTurn · b) := fun _ _ h =>
  (BitVec.xor_left_inj _).mp (turns8_injective h)

/-- A difference in the register survives every further byte. -/
theorem foldl_byteTurn_injective (d : List Byte) : Function.Injective (d.foldl byteTurn) := by
  induction d with
  | nil => exact Function.injective_id
  | cons b d ih => exact ih.comp (byteTurn_injective b)

theorem crc16_concat (d : List Byte) (b : Byte) : crc16 (d ++ [b]) = byteTurn (crc16 d) b := crc16_append d [b]

/-- A leading zero byte changes the register, and no later byte undoes that, 40_crc.md R130. -/
theorem crc16_zero_cons_ne (d : List Byte) : crc16 (0#8 :: d) ≠ crc16 d := by
  have hne : byteTurn 0xFFFF#16 0#8 ≠ 0xFFFF#16 := by decide
  rw [crc16_eq_foldl_byteTurn, crc16_eq_foldl_byteTurn, List.foldl_cons]
  exact (foldl_byteTurn_injective d).ne hne

/-- Settles O10: the loop by its last byte, the leading zero by injectivity, the printed values by the table form. -/
theorem crc16FollowsTheByteLoop : Obligations.Crc16FollowsTheByteLoop := by
  unfold Obligations.Crc16FollowsTheByteLoop
  have one_zero : crc16 [0#8] = 0x40BF#16 := (crc16_eq_tableCrc _).trans (by decide)
  have device_info_request : crc16 [0xFB#8, 0x10#8, 0x00#8, 0x00#8] = 0xC530#16 :=
    (crc16_eq_tableCrc _).trans (by decide)
  exact ⟨crc16_nil, crc16_concat, by decide, one_zero, crc16_zero_cons_ne, device_info_request, exec_crc16⟩

end Sys2Proof.Proofs

/-! SUPPORT. The statements on the frame builder (41_frame_build.md): what a built frame holds byte by byte and what
its checksum is, what the builders hand back, and what DECODE makes of a built frame. -/

namespace Sys2Proof.Proofs

open Sys2Proof Sys2Proof.Machine Sys2Proof.Claims

/-! ### The residue -/

/-- A byte equal to the register's low half picks table entry 0, so the register is only shifted. -/
theorem byteTurn_lo8 (c : Word) : byteTurn c (lo8 c) = c >>> 8 := by
  have hlo : lo8 c = c.setWidth 8 := BitVec.setWidth_eq_extractLsb' (by decide) |>.symm
  have hzero : tableEntry 0#8 = 0#16 := by decide
  rw [byteTurn_eq_tableEntry, hlo, BitVec.xor_self, hzero, BitVec.xor_zero]

/-- The two bytes of the register, low byte first, shift it out: the self-check of 40_crc.md R136. -/
theorem byteTurn_lo8_hi8 (c : Word) : byteTurn (byteTurn c (lo8 c)) (hi8 c) = 0#16 := by
  have hhi : hi8 c = lo8 (c >>> 8) := by
    ext i hi
    simp [hi8, lo8]
  rw [byteTurn_lo8, hhi, byteTurn_lo8, ← BitVec.shiftRight_add]
  exact BitVec.ushiftRight_eq_zero (Nat.le_refl 16)

/-- A sealed sequence is checksum-valid, 40_crc.md R134 and R136. -/
theorem crc16_sealBytes (b : List Byte) : crc16 (sealBytes b) = 0#16 :=
  (crc16_append b (leBytes (crc16 b))).trans (byteTurn_lo8_hi8 (crc16 b))

/-! ### The bytes of a frame -/

/-- What the checksum of a built frame covers: header and payload, 41_frame_build.md R150. -/
def frameBody (marker op : Byte) (pay : List Byte) : List Byte := header marker op 0#8 pay ++ pay

theorem frameOf_eq_body_append (m op : Byte) (pay : List Byte) :
    frameOf m op pay = frameBody m op pay ++ leBytes (crc16 (frameBody m op pay)) := rfl

theorem frameOf_eq_header_append (m op : Byte) (pay : List Byte) :
    frameOf m op pay = header m op 0#8 pay ++ (pay ++ leBytes (crc16 (frameBody m op pay))) :=
  List.append_assoc _ _ _

@[simp] theorem frameBody_length (m op : Byte) (pay : List Byte) : (frameBody m op pay).length = 4 + pay.length := by
  simp [frameBody, header]; omega

@[simp] theorem frameOf_length (m op : Byte) (pay : List Byte) : (frameOf m op pay).length = 6 + pay.length := by
  simp [frameOf_eq_body_append]; omega

theorem crc16_frameOf (m op : Byte) (pay : List Byte) : crc16 (frameOf m op pay) = 0#16 :=
  crc16_sealBytes (frameBody m op pay)

theorem frameOf_take_header (m op : Byte) (pay : List Byte) :
    (frameOf m op pay).take 4 = [m, op, 0x00#8, BitVec.ofNat 8 pay.length] := rfl

theorem frameOf_payload (m op : Byte) (pay : List Byte) : ((frameOf m op pay).drop 4).take pay.length = pay := by
  rw [frameOf_eq_header_append]
  exact List.take_left

theorem frameOf_take_body (m op : Byte) (pay : List Byte) :
    (frameOf m op pay).take (4 + pay.length) = frameBody m op pay := by
  rw [← frameBody_length m op pay, frameOf_eq_body_append, List.take_left]

/-- The bytes behind header and payload are the checksum's, low byte first. -/
theorem byteAt_frameOf_checksum (m op : Byte) (pay : List Byte) (k : Nat) :
    byteAt (frameOf m op pay) (4 + pay.length + k) = byteAt (leBytes (crc16 (frameBody m op pay))) k := by
  rw [frameOf_eq_body_append, byteAt_append_right _ _ _ (by simp)]
  simp

theorem frameOf_checksum (m op : Byte) (pay : List Byte) :
    (byteAt (frameOf m op pay) (4 + pay.length)).toNat + 256 * (byteAt (frameOf m op pay) (5 + pay.length)).toNat
      = (crc16 ((frameOf m op pay).take (4 + pay.length))).toNat := by
  have hlo := byteAt_frameOf_checksum m op pay 0
  have hhi := byteAt_frameOf_checksum m op pay 1
  rw [Nat.add_right_comm] at hhi
  rw [frameOf_take_body, ← lo8_add_hi8]
  exact congrArg₂ (fun lo hi : Byte => lo.toNat + 256 * hi.toNat) hlo hhi

/-! ### What the builders hand back -/

/-- Every builder's frame is laid out as 41_frame_build.md R150 says. -/
theorem buildRequest_buildsFrame (op : Byte) (pay : List Byte) (s : State) (h : pay.length ≤ 255) :
    BuildsFrame op pay s (buildRequest op pay s) :=
  ⟨frameOf 0xFB#8 op pay, buildRequest_of_le op pay s h, frameOf_length _ _ _, frameOf_take_header _ _ _,
    frameOf_payload _ _ _, frameOf_checksum _ _ _, crc16_frameOf _ _ _⟩

/-- Settles O13: ENCODE is the shared build operation. -/
theorem encodeBuildsTheFrame : Obligations.EncodeBuildsTheFrame := by
  unfold Obligations.EncodeBuildsTheFrame
  intro op pay s h
  exact buildRequest_buildsFrame op pay s h

/-- A request whose frame is known byte by byte, its checksum by the table-driven form of 40_crc.md R132. -/
theorem buildRequest_of_tableCrc (op : Byte) (pay : List Byte) {tx : List Byte} (s : State) (hl : pay.length ≤ 255)
    (h : frameBody 0xFB#8 op pay ++ leBytes (tableCrc (frameBody 0xFB#8 op pay)) = tx) :
    buildRequest op pay s = .next { s with out := .frame tx } := by
  rw [buildRequest_of_le op pay s hl, frameOf_eq_body_append, crc16_eq_tableCrc, h]
  rfl

/-- Settles O20: the three rows are the shared build operation, and their empty frames are evaluated. -/
theorem unlaidRequestsAreBuiltLikeAnyOther : Obligations.UnlaidRequestsAreBuiltLikeAnyOther := by
  unfold Obligations.UnlaidRequestsAreBuiltLikeAnyOther
  intro s
  refine ⟨fun pay h => ⟨?_, ?_, ?_⟩, ?_, ?_, ?_⟩
  · exact buildRequest_buildsFrame 0x00#8 pay s h
  · exact buildRequest_buildsFrame 0x50#8 pay s h
  · exact buildRequest_buildsFrame 0x55#8 pay s h
  · exact buildRequest_of_tableCrc 0x00#8 [] s (by decide) (by decide)
  · exact buildRequest_of_tableCrc 0x50#8 [] s (by decide) (by decide)
  · exact buildRequest_of_tableCrc 0x55#8 [] s (by decide) (by decide)

/-- Settles O17: the row is the shared build operation on its one byte, and the query's frame is evaluated. -/
theorem settingsQueryIsEncodeOfOneByte : Obligations.SettingsQueryIsEncodeOfOneByte := by
  unfold Obligations.SettingsQueryIsEncodeOfOneByte
  intro mode s
  constructor
  · exact buildRequest_buildsFrame 0x35#8 [mode] s (by simp)
  · exact buildRequest_of_tableCrc 0x35#8 [0x80#8] s (by decide) (by decide)

/-! ### The settings payload -/

theorem exec_genSet (en : Bool) (v i ovp ocp : Word) (s : State) :
    exec (.genSet en v i ovp ocp) s = .next { s with out := .payload (genSetPayload en v i ovp ocp) } := rfl

theorem genSetPayload_length (en : Bool) (v i ovp ocp : Word) : (genSetPayload en v i ovp ocp).length = 10 := rfl

/-- Settles O15: each operand stands as its two bytes, low byte first, and a word is its two bytes. -/
theorem genSetBuildsTheSettingsPayload : Obligations.GenSetBuildsTheSettingsPayload := by
  unfold Obligations.GenSetBuildsTheSettingsPayload
  intro en v i ovp ocp s
  have henable : (if en then 1#8 else 0#8).toNat = en.toNat := by cases en <;> rfl
  exact ⟨genSetPayload en v i ovp ocp, exec_genSet en v i ovp ocp s, genSetPayload_length en v i ovp ocp, rfl, henable,
    lo8_add_hi8 v, lo8_add_hi8 i, lo8_add_hi8 ovp, lo8_add_hi8 ocp⟩

/-- The row of a settings request with its own mode byte builds the frame of GEN_SET's payload, 41_frame_build.md
R157. -/
theorem exec_reqBasicsetModify_eq_encode (en : Bool) (v i ovp ocp : Word) (s : State) :
    exec (.reqBasicsetModify 0x20#8 (if en then 1#8 else 0#8) v i ovp ocp) s
      = exec (.encode 0x35#8 (genSetPayload en v i ovp ocp)) s := rfl

/-- Settles O18: the payload is GEN_SET's, and the row and ENCODE of that payload are one operation. -/
theorem settingsRequestIsGenSetThenEncode : Obligations.SettingsRequestIsGenSetThenEncode := by
  unfold Obligations.SettingsRequestIsGenSetThenEncode
  intro en v i ovp ocp s
  have hlen : (genSetPayload en v i ovp ocp).length ≤ 255 := by rw [genSetPayload_length]; decide
  have hbuild := buildRequest_of_le 0x35#8 (genSetPayload en v i ovp ocp) s hlen
  exact ⟨genSetPayload en v i ovp ocp, _, exec_genSet en v i ovp ocp s, genSetPayload_length en v i ovp ocp, hbuild,
    (exec_reqBasicsetModify_eq_encode en v i ovp ocp s).trans hbuild,
    hbuild ▸ buildRequest_buildsFrame 0x35#8 _ s hlen⟩

/-! ### The parser on a built frame -/

/-- A buffer with another marker is not from the device, 42_frame_parse.md R172. -/
theorem parse_of_marker_ne {rx : List Byte} (hne : rx ≠ []) (hm : byteAt rx 0 ≠ 0xFA#8) :
    parse rx = .error .ignored := by
  rcases parse_cases rx with ⟨h, -⟩ | ⟨-, -, h⟩ | ⟨-, h, -⟩ | ⟨h, -⟩ | ⟨h, -⟩
  · exact absurd h hne
  · exact h
  all_goals exact absurd h hm

/-- An intact buffer is parsed to the view it shows, 42_frame_parse.md R176. -/
theorem parse_of_intact {rx : List Byte} (h : Intact rx) :
    parse rx = .ok { op := byteAt rx 1, len := byteAt rx 3, payload := payloadOf rx } := by
  obtain ⟨hm, hlen, hcrc⟩ := h
  rcases parse_cases rx with ⟨he, -⟩ | ⟨-, hm', -⟩ | ⟨-, -, hshort, -⟩ | ⟨-, -, hcrc', -⟩ | ⟨-, -, -, hok⟩
  · rw [he] at hlen; simp at hlen
  · exact absurd hm hm'
  · unfold lengthByte at hlen; omega
  · exact absurd hcrc hcrc'
  · exact hok

theorem exec_decode_of_parse_error {rx : List Byte} {k : ResultKind} (h : parse rx = .error k) (s : State) :
    exec (.decode rx) s = .next (endDecode s (.error k) 0#8 none) := by
  rw [exec_decode, execDecode_eq, h]; rfl

theorem exec_decode_of_parse_ok {rx : List Byte} {v : View} (h : parse rx = .ok v) (s : State) :
    exec (.decode rx) s = .next (endDecode s (dispatch v) v.op (some v)) := by
  rw [exec_decode, execDecode_eq, h]; rfl

/-- The length byte of a frame counts its payload, 30_encoding.md R94. -/
theorem lengthByte_frameOf (m op : Byte) (pay : List Byte) (h : pay.length ≤ 255) :
    lengthByte (frameOf m op pay) = pay.length :=
  (BitVec.toNat_ofNat pay.length 8).trans (Nat.mod_eq_of_lt (Nat.lt_succ_of_le h))

theorem payloadOf_frameOf (m op : Byte) (pay : List Byte) (h : pay.length ≤ 255) :
    payloadOf (frameOf m op pay) = pay := by
  rw [payloadOf, lengthByte_frameOf m op pay h, frameOf_payload]

/-- A frame built with the device's marker passes the marker, extent and checksum tests. -/
theorem intact_frameOf (op : Byte) (pay : List Byte) (h : pay.length ≤ 255) : Intact (frameOf 0xFA#8 op pay) := by
  have hlen : (frameOf 0xFA#8 op pay).length = 6 + lengthByte (frameOf 0xFA#8 op pay) := by
    rw [frameOf_length, lengthByte_frameOf _ _ _ h]
  refine ⟨rfl, hlen.ge, ?_⟩
  rw [← hlen, List.take_length, crc16_frameOf]

/-- The parser takes apart what the builder put together, 41_frame_build.md R160. -/
theorem parse_frameOf (op : Byte) (pay : List Byte) (h : pay.length ≤ 255) :
    parse (frameOf 0xFA#8 op pay) = .ok { op := op, len := BitVec.ofNat 8 pay.length, payload := pay } := by
  rw [parse_of_intact (intact_frameOf op pay h), payloadOf_frameOf 0xFA#8 op pay h]
  rfl

/-- An extractor's answer ends a DECODE in one of the kinds that come after a good checksum, 10_state.md R31. -/
theorem endKind_of_answers {op : Byte} {x : Except ResultKind Update} (h : Answers op x) :
    endKind x ∈ [ResultKind.updated, .protocolViolation, .decodeError, .unrecognized] := by
  rcases h with ⟨rfl, -⟩ | ⟨rfl, -⟩ | ⟨rfl, -⟩ | ⟨-, d, rfl, -⟩ | ⟨-, b, rfl⟩ | ⟨-, ⟨b, rfl⟩ | rfl⟩ | ⟨-, b, rfl⟩ <;>
    simp [endKind]

/-- A frame as ENCODE builds it carries the host's marker. -/
theorem exec_decode_of_request (op : Byte) (pay : List Byte) (s : State) :
    exec (.decode (frameOf 0xFB#8 op pay)) s = .next (rejects s ⟨.ignored, 0#8⟩ none) :=
  calc exec (.decode (frameOf 0xFB#8 op pay)) s
    _ = .next (endDecode s (.error .ignored) 0#8 none) :=
      exec_decode_of_parse_error (parse_of_marker_ne (List.cons_ne_nil _ _) (show 0xFB#8 ≠ 0xFA#8 by decide)) s
    _ = .next (rejects s ⟨.ignored, 0#8⟩ none) := congrArg _ (endDecode_error (by decide) s 0#8 none)

/-- Settles O27: with the device's marker the frame is intact, so the parser gives back its operands and an extractor's
answer ends the DECODE; with the host's marker the parser stops at byte 0. -/
theorem parserRecoversWhatTheBuilderBuilt : Obligations.ParserRecoversWhatTheBuilderBuilt := by
  unfold Obligations.ParserRecoversWhatTheBuilderBuilt
  intro op pay s h
  constructor
  · exact ⟨_, exec_decode_of_parse_ok (parse_frameOf op pay h) s, rfl, endKind_of_answers (dispatch_answers _)⟩
  · exact ⟨frameOf 0xFB#8 op pay, buildRequest_of_le op pay s h, exec_decode_of_request op pay s⟩

end Sys2Proof.Proofs

/-! SUPPORT. The statements on the frame parser (42_frame_parse.md): a buffer with another marker, a wrong checksum, and
what one inverted bit does to a checksum-valid sequence and to an intact frame. -/

namespace Sys2Proof.Proofs

open Sys2Proof Sys2Proof.Machine Sys2Proof.Claims

/-! ### A DECODE that ends on an error -/

/-- The end of a DECODE with PHASE left open, 60_exceptions.md R232. -/
theorem reports_of_parse_error {rx : List Byte} {k : ResultKind} (h : parse rx = .error k) (s : State) :
    Reports s s.dsm (resultOf k 0#8) none (exec (.decode rx) s) :=
  ⟨phaseAfter k s.phase, exec_decode_of_parse_error h s⟩

theorem reports_ignored {rx : List Byte} (hne : rx ≠ []) (hm : byteAt rx 0 ≠ 0xFA#8) (s : State) :
    Reports s s.dsm { kind := .ignored, op := 0#8 } none (exec (.decode rx) s) :=
  reports_of_parse_error (parse_of_marker_ne hne hm) s

/-- Settles O24: the marker test comes before every length test but the one for the empty buffer. -/
theorem otherMarkerIsIgnored : Obligations.OtherMarkerIsIgnored := by
  unfold Obligations.OtherMarkerIsIgnored
  intro m rest s hm
  exact reports_ignored (List.cons_ne_nil m rest) hm s

/-- A whole frame from the device whose checksum is wrong is turned away, 42_frame_parse.md R175. -/
theorem parse_of_crc16_ne {rx : List Byte} (hm : byteAt rx 0 = 0xFA#8) (hlen : 6 + lengthByte rx ≤ rx.length)
    (hcrc : crc16 (rx.take (6 + lengthByte rx)) ≠ 0#16) : parse rx = .error .crcError := by
  rcases parse_cases rx with ⟨he, -⟩ | ⟨-, hm', -⟩ | ⟨-, -, hshort, -⟩ | ⟨-, -, -, h⟩ | ⟨-, -, hcrc', -⟩
  · rw [he] at hlen; simp at hlen
  · exact absurd hm hm'
  · unfold lengthByte at hlen; omega
  · exact h
  · exact absurd hcrc' hcrc

/-! ### One inverted bit -/

@[simp] theorem flipBit_length (f : List Byte) (k j : Nat) : (flipBit f k j).length = f.length :=
  List.length_modify _ _ _

theorem flipBit_take (f : List Byte) (k j n : Nat) : (flipBit f k j).take n = flipBit (f.take n) k j :=
  List.take_modify _ _ _ _

theorem flipBit_eq_append {f : List Byte} {k : Nat} (hk : k < f.length) (j : Nat) :
    flipBit f k j = f.take k ++ (f[k] ^^^ (1#8 <<< j)) :: f.drop (k + 1) :=
  List.modify_eq_take_cons_drop hk

theorem byteAt_flipBit_ne (f : List Byte) {k i : Nat} (h : k ≠ i) (j : Nat) :
    byteAt (flipBit f k j) i = byteAt f i := by
  simp [byteAt, flipBit, List.getElem?_modify_ne _ _ h]

theorem byteAt_flipBit_self {f : List Byte} {k : Nat} (hk : k < f.length) (j : Nat) :
    byteAt (flipBit f k j) k = byteAt f k ^^^ (1#8 <<< j) := by
  simp [byteAt, flipBit, hk]

/-- Inverting a bit changes the byte. -/
theorem xor_bit_ne (b : Byte) {j : Nat} (hj : j < 8) : b ^^^ (1#8 <<< j) ≠ b := fun h =>
  have mask_ne : ∀ j < 8, 1#8 <<< j ≠ 0#8 := by decide
  mask_ne j hj ((BitVec.xor_right_inj b).mp (h.trans (BitVec.xor_zero).symm))

/-- Two bytes that enter the same register lead to different registers. -/
theorem byteTurn_injective_byte (c : Word) : Function.Injective (byteTurn c) := fun x y h =>
  have low_half (b : Byte) : (b.setWidth 16).setWidth 8 = b :=
    (BitVec.setWidth_setWidth_of_le b (by decide)).trans (BitVec.setWidth_eq b)
  have widened : x.setWidth 16 = y.setWidth 16 := (BitVec.xor_right_inj c).mp (turns8_injective h)
  Function.LeftInverse.injective low_half widened

/-- Two sequences that differ in one byte differ in their checksums: the registers differ behind that byte, and no
later byte undoes that. -/
theorem crc16_ne_of_byte_ne (a d : List Byte) {x y : Byte} (h : x ≠ y) :
    crc16 (a ++ x :: d) ≠ crc16 (a ++ y :: d) := by
  have at_byte (b : Byte) : crc16 (a ++ b :: d) = d.foldl byteTurn (byteTurn (crc16 a) b) := crc16_append a (b :: d)
  rw [at_byte, at_byte]
  exact (foldl_byteTurn_injective d).ne ((byteTurn_injective_byte _).ne h)

/-- One inverted bit is detected over a fixed range, 40_crc.md R137. -/
theorem crc16_flipBit_ne {f : List Byte} {k j : Nat} (hk : k < f.length) (hj : j < 8) :
    crc16 (flipBit f k j) ≠ crc16 f := by
  have original : f = f.take k ++ f[k] :: f.drop (k + 1) := by simp
  rw [flipBit_eq_append hk j]
  conv_rhs => rw [original]
  exact crc16_ne_of_byte_ne _ _ (xor_bit_ne f[k] hj)

/-! ### One inverted bit of an intact frame -/

/-- Away from bytes 0 and 3 the extent stays where it is, and the checksum over it detects the bit. -/
theorem parse_flipBit {rx : List Byte} {k j : Nat} (h : Intact rx) (hk : k < 6 + lengthByte rx) (hj : j < 8)
    (h0 : k ≠ 0) (h3 : k ≠ 3) : parse (flipBit rx k j) = .error .crcError := by
  obtain ⟨hm, hlen, hcrc⟩ := h
  have extent : lengthByte (flipBit rx k j) = lengthByte rx := congrArg BitVec.toNat (byteAt_flipBit_ne rx h3 j)
  have inside : k < (rx.take (6 + lengthByte rx)).length := by rwa [List.length_take_of_le hlen]
  apply parse_of_crc16_ne
  · rw [byteAt_flipBit_ne rx h0, hm]
  · rw [extent, flipBit_length]
    exact hlen
  · rw [extent, flipBit_take, ← hcrc]
    exact crc16_flipBit_ne inside hj

/-- Settles O25: the parser stops at the checksum; an inverted bit leaves marker and extent alone and is detected over
that extent, or it spoils the marker. -/
theorem checksumMismatchIsCrcError : Obligations.ChecksumMismatchIsCrcError := by
  unfold Obligations.ChecksumMismatchIsCrcError
  refine ⟨fun rx s hm hlen hcrc => reports_of_parse_error (parse_of_crc16_ne hm hlen hcrc) s, ?_⟩
  intro rx k j s h hk hj
  refine ⟨fun h0 h3 => reports_of_parse_error (parse_flipBit h hk hj h0 h3) s, ?_⟩
  rintro rfl
  obtain ⟨hm, hlen, -⟩ := h
  have nonempty : 0 < rx.length := by omega
  apply reports_ignored
  · exact List.ne_nil_of_length_pos (by rwa [flipBit_length])
  · rw [byteAt_flipBit_self nonempty, hm]
    exact xor_bit_ne _ hj

/-! ### The flip that escapes through the length byte -/

/-- A DECODE whose extractor succeeds accepts, 42_frame_parse.md R179. -/
theorem endDecode_ok (s : State) (u : Update) (v : View) :
    endDecode s (.ok u) v.op (some v) = accepts s (s.dsm.apply u) v :=
  congrArg (fun p => { s with dsm := s.dsm.apply u, result := ⟨.updated, v.op⟩, phase := p,
                              out := .decoded ⟨.updated, v.op⟩ (some v) }) (phaseAfter_updated s.phase)

/-- V-DEC-21: a reply with three payload bytes. Behind its first payload byte it holds the checksum that the
acknowledgement, a frame of one payload byte, would have there. -/
def replyHoldingAcknowledgement : List Byte :=
  [0xFA#8, 0x35#8, 0x00#8, 0x03#8, 0x01#8, 0x33#8, 0x88#8, 0x01#8, 0xB8#8]

theorem replyHoldingAcknowledgement_intact : Intact replyHoldingAcknowledgement :=
  ⟨rfl, by decide, (crc16_eq_tableCrc _).trans (by decide)⟩

/-- V-DEC-22: the inverted bit makes the length 1, and the shorter extent is the acknowledgement. -/
theorem flipBit_replyHoldingAcknowledgement_intact : Intact (flipBit replyHoldingAcknowledgement 3 1) :=
  ⟨rfl, by decide, (crc16_eq_tableCrc _).trans (by decide)⟩

/-- Settles O12: one changed byte changes the checksum over a fixed range; V-DEC-21 and V-DEC-22 are the flip that moves
the range. -/
theorem singleBitFlipIsDetectedOverAFixedRange : Obligations.SingleBitFlipIsDetectedOverAFixedRange := by
  unfold Obligations.SingleBitFlipIsDetectedOverAFixedRange
  refine ⟨fun f k j hf hk hj => hf ▸ crc16_flipBit_ne hk hj, ?_⟩
  refine ⟨replyHoldingAcknowledgement, replyHoldingAcknowledgement_intact, fun s => ?_⟩
  have acknowledged : dispatch ⟨0x35#8, 1#8, [1#8]⟩ = .ok .acknowledged := by decide
  calc exec (.decode (flipBit replyHoldingAcknowledgement 3 1)) s
    _ = .next (endDecode s (dispatch ⟨0x35#8, 1#8, [1#8]⟩) 0x35#8 (some ⟨0x35#8, 1#8, [1#8]⟩)) :=
      exec_decode_of_parse_ok (parse_of_intact flipBit_replyHoldingAcknowledgement_intact) s
    _ = .next (accepts s s.dsm ⟨0x35#8, 1#8, [1#8]⟩) := by
      rw [acknowledged]
      exact congrArg _ (endDecode_ok s .acknowledged ⟨0x35#8, 1#8, [1#8]⟩)

end Sys2Proof.Proofs

/-! SUPPORT. The statements on the payload-field decoder (43_payload_decode.md): a basic-info reply, an acknowledgement,
a basic-set reply of another length, and the device-type text. -/

namespace Sys2Proof.Proofs

open Sys2Proof Sys2Proof.Machine Sys2Proof.Claims

/-! ### A reply row whose checksum is right -/

/-- An extractor that succeeds makes its reply row accept, 42_frame_parse.md R179. -/
theorem checkedReply_accepts {op : Byte} {r : Reply} {x : Except ResultKind Update} {u : Update} (hv : Vouched op r)
    (hx : x = .ok u) (s : State) : checkedReply op r x s = accepts s (s.dsm.apply u) (viewOf op r) :=
  calc checkedReply op r x s
    _ = endDecode s x op (some (viewOf op r)) := checkedReply_of_vouched hv x s
    _ = endDecode s (.ok u) op (some (viewOf op r)) := by rw [hx]
    _ = accepts s (s.dsm.apply u) (viewOf op r) := endDecode_ok s u (viewOf op r)

/-- An extractor that refuses its payload makes its reply row reject, 43_payload_decode.md R190 (a). -/
theorem checkedReply_violation {op : Byte} {r : Reply} {x : Except ResultKind Update} (hv : Vouched op r)
    (hx : x = .error .protocolViolation) (s : State) :
    checkedReply op r x s = rejects s ⟨.protocolViolation, op⟩ (some (viewOf op r)) :=
  calc checkedReply op r x s
    _ = endDecode s x op (some (viewOf op r)) := checkedReply_of_vouched hv x s
    _ = endDecode s (.error .protocolViolation) op (some (viewOf op r)) := by rw [hx]
    _ = rejects s ⟨.protocolViolation, op⟩ (some (viewOf op r)) := endDecode_error (by decide) s op _

/-- What `accepts` says with PHASE left open. -/
theorem reports_accepts (s : State) (d : Dsm) (v : View) :
    Reports s d ⟨.updated, v.op⟩ (some v) (.next (accepts s d v)) := ⟨_, rfl⟩

/-- What `rejects` says with PHASE left open. -/
theorem reports_rejects (s : State) (k : Result) (v : Option View) :
    Reports s s.dsm k v (.next (rejects s k v)) := ⟨_, rfl⟩

/-! ### What the extractors answer -/

theorem xBasicinfo_violation {p : List Byte} (h : p.length ≠ 16) : xBasicinfo p = .error .protocolViolation :=
  if_pos ((lengthFits_eq_false_iff p 16).2 h)

/-- The acknowledgement path, 43_payload_decode.md R197. -/
theorem xBasicset_singleton (b : Byte) :
    xBasicset [b] = if b = 1#8 then .ok .acknowledged else .error .protocolViolation := rfl

/-- Every length but the two of 43_payload_decode.md R196 and R197. -/
theorem xBasicset_violation {p : List Byte} (h1 : p.length ≠ 1) (h10 : p.length ≠ 10) :
    xBasicset p = .error .protocolViolation := by
  rcases xBasicset_cases p with ⟨h, -⟩ | ⟨h, -⟩ | ⟨h, -⟩ | ⟨-, -, h⟩
  · exact absurd h h1
  · exact absurd h h1
  · exact absurd h h10
  · exact h

/-! ### The replies -/

/-- Settles O36: the extractor answers nine fields or a violation by the length alone, and the row ends on its answer. -/
theorem basicInfoReplyReplacesItsRecord : Obligations.BasicInfoReplyReplacesItsRecord := by
  unfold Obligations.BasicInfoReplyReplacesItsRecord
  intro r s hv
  constructor
  · intro hlen
    exact congrArg _ (checkedReply_accepts hv (xBasicinfo_ok hlen) s)
  · intro hlen
    exact congrArg _ (checkedReply_violation hv (xBasicinfo_violation hlen) s)

/-- Settles O40: the one payload byte decides between an update that writes no record and a violation. -/
theorem acknowledgementUpdatesNoField : Obligations.AcknowledgementUpdatesNoField := by
  unfold Obligations.AcknowledgementUpdatesNoField
  intro r b s hv hp
  have answer : xBasicset r.payload = if b = 1#8 then .ok .acknowledged else .error .protocolViolation :=
    hp ▸ xBasicset_singleton b
  have row : exec (.rspBasicsetAck r) s = .next (checkedReply 0x35#8 r (xBasicset r.payload) s) := rfl
  constructor
  · intro hb
    rw [row, checkedReply_accepts hv (answer.trans (if_pos hb)) s]
    exact reports_accepts s s.dsm (viewOf 0x35#8 r)
  · intro hb
    rw [row, checkedReply_violation hv (answer.trans (if_neg hb)) s]
    exact reports_rejects s _ _

/-- Settles O41: neither path of the extractor takes the length. -/
theorem otherBasicSetLengthsViolate : Obligations.OtherBasicSetLengthsViolate := by
  unfold Obligations.OtherBasicSetLengthsViolate
  intro r s hv h1 h10
  exact congrArg _ (checkedReply_violation hv (xBasicset_violation h1 h10) s)

/-! ### The device-type text -/

/-- The text is looked for in the first 15 bytes only, 43_payload_decode.md R193. -/
theorem devtypeText_eq (p : List Byte) : devtypeText p = upToZero (p.take 15) := rfl

/-- Settles O43: the search runs in the 15-byte field, and stops at its first zero byte or at its end. -/
theorem textEndsAtTheFirstZeroOfItsField : Obligations.TextEndsAtTheFirstZeroOfItsField := by
  unfold Obligations.TextEndsAtTheFirstZeroOfItsField
  intro p
  rw [devtypeText_eq]
  constructor
  · intro a b hfield ha
    rw [hfield, upToZero_append_zero a b ha]
  · exact upToZero_of_no_zero (p.take 15)

end Sys2Proof.Proofs

/-! SUPPORT. The statements on PHASE and on a failed read of the transport (60_exceptions.md section 2, 10_state.md
R33). -/

namespace Sys2Proof.Proofs

open Sys2Proof Sys2Proof.Machine Sys2Proof.Claims

/-! ### PHASE after each kind of move -/

theorem phaseOnSend_eq (tx : List Byte) (p : Phase) :
    phaseOnSend tx p = if p = .idle ∧ builtByEncode tx = true then .frameSent else p := by
  cases p with
  | idle => simp [phaseOnSend]
  | frameSent | awaitingReply | decoded | rejected => rfl

theorem phaseOnRecv_eq (p : Phase) : phaseOnRecv p = if p = .frameSent then .awaitingReply else p := by
  cases p <;> rfl

/-- PHASE after an act of the host's, 92_eei_decisions.md D14. -/
def phaseOnAct : HostAct → Phase → Phase
  | .send tx, p => if p = .idle ∧ builtByEncode tx = true then .frameSent else p
  | .recv, p => if p = .frameSent then .awaitingReply else p
  | .reset, _ => .idle
  | .read _, p | .readFails, p | .readHangs, p => p

theorem hostAct_phase {a : HostAct} {s t : State} (h : hostAct a s = .next t) : t.phase = phaseOnAct a s.phase := by
  cases a with
  | send tx => cases h; exact phaseOnSend_eq tx s.phase
  | recv => cases h; exact phaseOnRecv_eq s.phase
  | read _ | reset | readFails => cases h; rfl
  | readHangs => cases h

/-- An instruction moves PHASE only if it receives, and then by the kind it ends with, 10_state.md R33. -/
theorem exec_phase {i : Instr} {s t : State} (h : exec i s = .next t) :
    t.phase = if receives i = true ∧ s.phase = .awaitingReply then
      (if t.result.kind = .updated then .decoded else .rejected) else s.phase := by
  cases hi : receives i with
  | true =>
    obtain ⟨x, op, view, -, rfl⟩ := exec_next_of_receives hi h
    exact (phaseAfter_eq (endKind x) s.phase).trans (if_congr (by simp) rfl rfl)
  | false =>
    obtain ⟨o, rfl⟩ := exec_next_of_not_receives hi h
    exact (if_neg (nofun : ¬ (false = true ∧ _))).symm

/-! ### The edges of the cycle -/

/-- A move that is an edge under its trigger and stands still otherwise. -/
theorem stays_or_cycleEdge {c : Prop} [Decidable c] {p q r : Phase} (hr : r = if c then q else p)
    (h : c → CycleEdge p q) : r = p ∨ CycleEdge p r := by
  subst hr
  split
  · next hc => exact .inr (h hc)
  · exact .inl rfl

theorem cycleEdge_of_decode (c : Prop) [Decidable c] :
    CycleEdge .awaitingReply (if c then .decoded else .rejected) := by
  by_cases hc : c <;> simp [CycleEdge, hc]

theorem cycleEdge_idle_of_cycleOver {p : Phase} (h : cycleOver p = true) : CycleEdge p .idle := by
  cases p with
  | decoded | rejected => simp [CycleEdge]
  | idle | frameSent | awaitingReply => cases h

theorem phaseOnAct_stays_or_cycleEdge {a : HostAct} (ha : a ≠ .reset) (p : Phase) :
    phaseOnAct a p = p ∨ CycleEdge p (phaseOnAct a p) := by
  cases a with
  | send tx => exact stays_or_cycleEdge rfl fun ⟨hp, _⟩ => by simp [CycleEdge, hp]
  | recv => exact stays_or_cycleEdge rfl fun hp => by simp [CycleEdge, hp]
  | read _ | readFails | readHangs => exact .inl rfl
  | reset => exact absurd rfl ha

/-- Every step leaves PHASE, moves it along an edge of the cycle, or is a reset. -/
theorem step_phase {s t : State} (h : step s = .next t) :
    t.phase = s.phase ∨ CycleEdge s.phase t.phase ∨ (t.phase = .idle ∧ ∃ rest, s.moves = .act .reset :: rest) := by
  rcases step_cases s t h with ⟨hover, rfl⟩ | ⟨-, -, rfl⟩ | ⟨-, p, rest, i, -, -, hexec, -⟩ | ⟨-, a, rest, hm, hact⟩
  · exact .inr (.inl (cycleEdge_idle_of_cycleOver hover))
  · exact .inl rfl
  · have hstep := stays_or_cycleEdge (exec_phase hexec) fun ⟨_, hp⟩ => hp ▸ cycleEdge_of_decode _
    exact hstep.imp_right .inl
  · by_cases ha : a = .reset
    · subst ha
      exact .inr (.inr ⟨hostAct_phase hact, rest, hm⟩)
    · rw [hostAct_phase hact]
      exact (phaseOnAct_stays_or_cycleEdge ha s.phase).imp_right .inl

/-! ### One step by the move it takes -/

theorem step_issue {s : State} {p : Packet} {i : Instr} {rest : List HostMove} (h : TakesMoves s)
    (hm : s.moves = .issue p :: rest) (hd : decode p = .ok i) : step s = exec i (s.setMoves rest) := by
  rw [takesMoves_iff] at h
  simp [step, issue, h, hm, hd]

theorem step_act_phase {s t : State} {a : HostAct} {rest : List HostMove} (ht : TakesMoves s) (h : step s = .next t)
    (hm : s.moves = .act a :: rest) : t.phase = phaseOnAct a s.phase :=
  hostAct_phase (s := s.setMoves rest) ((step_act ht hm).symm.trans h)

/-- Settles O50: each kind of move has one equation for PHASE, and every edge it can take is the cycle's. -/
theorem phaseMovesAlongTheCycleOnly : Obligations.PhaseMovesAlongTheCycleOnly := by
  unfold Obligations.PhaseMovesAlongTheCycleOnly
  intro s t h
  refine ⟨step_phase h, fun hover => ?_, fun ht => ⟨?send, ?recv, ?issue, ?read, ?readFails, ?reset⟩⟩
  · obtain rfl := Host.Outcome.next.inj ((step_of_not_takesMoves hover).symm.trans h)
    rfl
  case issue => exact fun p i rest hm hd => exec_phase (s := s.setMoves rest) ((step_issue ht hm hd).symm.trans h)
  case send | read => exact fun _ _ => step_act_phase ht h
  case recv | readFails | reset => exact fun _ => step_act_phase ht h

/-- Settles O54: both failures are acts of the host's, and neither runs a DECODE. -/
theorem transportFailureLeavesTheCodecAlone : Obligations.TransportFailureLeavesTheCodecAlone := by
  unfold Obligations.TransportFailureLeavesTheCodecAlone
  intro s rest ht
  exact ⟨step_act ht, step_act ht⟩

end Sys2Proof.Proofs

/-! SUPPORT. The statement on a new instance, settled from the step that takes an act of the host's
(70_reset_and_hazards.md). -/

namespace Sys2Proof.Proofs

open Sys2Proof Sys2Proof.Machine Sys2Proof.Claims

/-- Settles O46: RESULT and PHASE are fields of the reset state, and a reset move is one act of the host's, which keeps
only the moves after it (R260). -/
theorem newInstanceStartsFromReset : Obligations.NewInstanceStartsFromReset := by
  unfold Obligations.NewInstanceStartsFromReset
  refine ⟨rfl, rfl, fun s rest ht hm => ?_⟩
  calc step s = hostAct .reset (s.setMoves rest) := step_act ht hm
    _ = .next { State.reset with moves := rest } := rfl

end Sys2Proof.Proofs

/-! SUPPORT. The statements on packets (30_encoding.md): an instruction's own packet is read back as the instruction, an
accepted packet meets its row's conditions, and no header word fits two of the rows with a mask of their own. -/

namespace Sys2Proof.Proofs

open Sys2Proof Sys2Proof.Machine Sys2Proof.Claims

/-! ### The length byte -/

/-- A payload length that a frame can carry is its length byte's value, 30_encoding.md R94. -/
theorem toNat_ofNat_of_le {n : Nat} (h : n ≤ 255) : (BitVec.ofNat 8 n).toNat = n :=
  (BitVec.toNat_ofNat n 8).trans (Nat.mod_eq_of_lt (Nat.lt_succ_of_le h))

theorem toNat_ofNat_length {pay : List Byte} (h : fitsFrame pay = true) :
    (BitVec.ofNat 8 pay.length).toNat = pay.length :=
  toNat_ofNat_of_le ((fitsFrame_iff pay).mp h)

/-- Counting a payload in the length byte loses nothing, so another length has another length byte. -/
theorem ofNat_length_ne {pay : List Byte} {n : Nat} (hn : n ≤ 255) (hfit : fitsFrame pay = true) (h : pay.length ≠ n) :
    BitVec.ofNat 8 pay.length ≠ BitVec.ofNat 8 n := fun he => h <|
  calc pay.length = (BitVec.ofNat 8 pay.length).toNat := (toNat_ofNat_length hfit).symm
    _ = n := by rw [he, toNat_ofNat_of_le hn]

/-- A payload that a length byte counts can stand in a frame. -/
theorem fitsFrame_of_length {pay : List Byte} {len : Byte} (h : pay.length = len.toNat) : fitsFrame pay = true :=
  (fitsFrame_iff pay).mpr (h ▸ Nat.le_of_lt_succ len.isLt)

/-! ### A packet read back -/

/-- The frame of a request is read by its row, 30_encoding.md R109. -/
theorem decode_frameOf (op : Byte) {pay : List Byte} (h : fitsFrame pay = true) :
    decode (.frame (frameOf Params.markH2D op pay)) = .ok (requestInstr op (BitVec.ofNat 8 pay.length) pay) :=
  decode_requestFrame op _ pay _ _ (toNat_ofNat_length h).symm

/-- The operands of a reply come back from the bytes behind its header. -/
theorem replyOperands_append (r : Reply) (h : fitsFrame r.payload = true) :
    replyOperands r.reserved (BitVec.ofNat 8 r.payload.length) (r.payload ++ leBytes r.crc ++ r.trailing) = r := by
  have hlen := toNat_ofNat_length h
  have hpay : (r.payload ++ leBytes r.crc ++ r.trailing).take r.payload.length = r.payload := by simp
  have hcrc : le16At (r.payload ++ leBytes r.crc ++ r.trailing) r.payload.length = r.crc := by
    simp [le16At, byteAt, leBytes]
  have htrail : (r.payload ++ leBytes r.crc ++ r.trailing).drop (r.payload.length + Params.crcLen) = r.trailing :=
    List.drop_left' (by simp [Params.crcLen])
  simp only [replyOperands, hlen, hpay, hcrc, htrail]

/-- The buffer of a reply is read by its row, 30_encoding.md R110. -/
theorem decode_replyBytes (op : Byte) (r : Reply) (h : fitsFrame r.payload = true) :
    decode (.frame (replyBytes op r)) = .ok (replyInstr op (BitVec.ofNat 8 r.payload.length) r) := by
  have hlen := toNat_ofNat_length h
  have hbytes : replyBytes op r = Params.markD2H :: op :: r.reserved :: BitVec.ofNat 8 r.payload.length ::
      (r.payload ++ leBytes r.crc ++ r.trailing) := rfl
  have hwhole : (BitVec.ofNat 8 r.payload.length).toNat + 2 ≤ (r.payload ++ leBytes r.crc ++ r.trailing).length := by
    rw [hlen]; simp
  rw [hbytes, decode, decodeFrame_reply op r.reserved _ _ hwhole, replyOperands_append r h]

/-- A reply with the one payload length of its row. -/
theorem decode_replyBytes_of_length (op : Byte) {r : Reply} {n : Nat} (hn : n ≤ 255) (h : r.payload.length = n) :
    decode (.frame (replyBytes op r)) = .ok (replyInstr op (BitVec.ofNat 8 n) r) :=
  h ▸ decode_replyBytes op r ((fitsFrame_iff _).mpr (h ▸ hn))

/-- A reply whose length is not its row's. -/
theorem decode_replyBytes_of_badlen (op : Byte) {r : Reply} {n : Nat} (hn : n ≤ 255)
    (h : (fitsFrame r.payload && r.payload.length != n) = true) :
    ∃ len, len ≠ BitVec.ofNat 8 n ∧ decode (.frame (replyBytes op r)) = .ok (replyInstr op len r) := by
  obtain ⟨hfit, hne⟩ := Bool.and_eq_true_iff.mp h
  exact ⟨_, ofNat_length_ne hn hfit (bne_iff_ne.mp hne), decode_replyBytes op r hfit⟩

/-- GEN_SET's operands come back from their byte form (log entry 1). -/
theorem decodeGenSet_operands (en : Bool) (v i ovp ocp : Word) :
    decodeGenSet ([if en then 1#8 else 0#8] ++ leBytes v ++ leBytes i ++ leBytes ovp ++ leBytes ocp)
      = .ok (.genSet en v i ovp ocp) := by
  cases en <;> simp [decodeGenSet, leBytes, le16At, byteAt]

theorem enumeratedOps_eq :
    Params.enumeratedOps = [0x00#8, 0x10#8, 0x30#8, 0x35#8, 0x40#8, 0x50#8, 0x55#8] := rfl

theorem replyInstr_of_not_enumerated {op : Byte} (len : Byte) (r : Reply) (h : op ∉ Params.enumeratedOps) :
    replyInstr op len r = .rspUnassigned op r := by
  simp only [enumeratedOps_eq, List.mem_cons, List.not_mem_nil, or_false, not_or] at h
  obtain ⟨h00, h10, h30, h35, h40, h50, h55⟩ := h
  simp [replyInstr, h00, h10, h30, h35, h40, h50, h55]

/-- Settles O1: a command by its selector, a request or reply by the row that its header and payload lead to. -/
theorem decodeOfEncodeIsTheInstruction : Obligations.DecodeOfEncodeIsTheInstruction := by
  unfold Obligations.DecodeOfEncodeIsTheInstruction
  intro i h
  cases i with
  | crc16 _ | decode _ => rfl
  | encode op pay => exact if_pos h
  | genSet en v i ovp ocp => exact decodeGenSet_operands en v i ovp ocp
  | reqNone pay | reqScanout pay | reqSerialout pay => exact decode_frameOf _ h
  | reqDeviceinfo | reqBasicinfo | reqSysteminfo => exact decode_frameOf _ (pay := []) rfl
  | reqBasicsetModify mode en v i ovp ocp =>
    refine (decode_frameOf _ (pay := basicsetPayload mode en v i ovp ocp) rfl).trans (congrArg _ ?_)
    have hbytes := (settingsBytes_iff mode en).mp h
    simp [requestInstr_basicset, basicsetPayload, leBytes, byteAt, Params.opBasicset, hbytes, ← le16At_eq_field, le16At]
  | reqBasicsetActivate mode =>
    refine (decode_frameOf _ (pay := [mode]) rfl).trans (congrArg _ ?_)
    have hbyte := (queryByte_iff mode).mp h
    simp [requestInstr_basicset, byteAt, Params.opBasicset, hbyte]
  | rspDeviceinfo r | rspBasicinfo r | rspBasicset r | rspBasicsetAck r | rspSysteminfo r =>
    exact decode_replyBytes_of_length _ (by decide) (beq_iff_eq.mp h)
  | rspBadlenDeviceinfo r | rspBadlenBasicinfo r | rspBadlenSysteminfo r =>
    obtain ⟨len, hne, hd⟩ := decode_replyBytes_of_badlen _ (by decide) h
    exact hd.trans (congrArg _ (if_neg hne))
  | rspBadlenBasicset r =>
    obtain ⟨hfit10, hne1⟩ := Bool.and_eq_true_iff.mp h
    obtain ⟨hfit, hne10⟩ := Bool.and_eq_true_iff.mp hfit10
    refine (decode_replyBytes _ r hfit).trans (congrArg _ ?_)
    exact (if_neg (ofNat_length_ne (by decide) hfit (bne_iff_ne.mp hne10))).trans
      (if_neg (ofNat_length_ne (by decide) hfit (bne_iff_ne.mp hne1)))
  | rspNone r | rspScanout r | rspSerialout r => exact decode_replyBytes _ r h
  | rspUnassigned op r =>
    obtain ⟨hfit, hop⟩ := Bool.and_eq_true_iff.mp h
    refine (decode_replyBytes op r hfit).trans (congrArg _ ?_)
    exact replyInstr_of_not_enumerated _ r (by simpa using hop)

/-! ### What is accepted -/

/-- A request row's operands are the bytes its payload shows, so they meet the row's condition, 30_encoding.md R109. -/
theorem wellFormed_requestInstr (op : Byte) {len : Byte} {pay : List Byte} (h : pay.length = len.toNat) :
    WellFormed (requestInstr op len pay) = true := by
  have hfit := fitsFrame_of_length h
  unfold requestInstr
  split_ifs with _ _ _ settings query
  · exact hfit
  · rfl
  · rfl
  · exact settings.2.2
  · exact query.2.2
  · rfl
  · exact hfit
  · exact hfit
  · exact hfit

/-- A reply row is chosen by its length byte, which counts its payload, 30_encoding.md R110. -/
theorem wellFormed_replyInstr (op : Byte) {len : Byte} {r : Reply} (h : r.payload.length = len.toNat) :
    WellFormed (replyInstr op len r) = true := by
  have hfit := fitsFrame_of_length h
  have own (k : Byte) (hk : len = k) : (r.payload.length == k.toNat) = true := by simp [h, hk]
  have other (k : Byte) (hk : len ≠ k) : (fitsFrame r.payload && r.payload.length != k.toNat) = true := by
    simpa [hfit, h, BitVec.toNat_inj] using hk
  unfold replyInstr
  split_ifs with h10 l38 h30 l16 h35 l10 l1 h40 l6 h00 h50 h55
  · exact own 38#8 l38
  · exact other 38#8 l38
  · exact own 16#8 l16
  · exact other 16#8 l16
  · exact own 10#8 l10
  · exact own 1#8 l1
  · exact Bool.and_eq_true_iff.mpr ⟨other 10#8 l10, (Bool.and_eq_true_iff.mp (other 1#8 l1)).2⟩
  · exact own 6#8 l6
  · exact other 6#8 l6
  · exact hfit
  · exact hfit
  · exact hfit
  · have hop : op ∉ Params.enumeratedOps := by simp [enumeratedOps_eq, h10, h30, h35, h40, h00, h50, h55]
    exact Bool.and_eq_true_iff.mpr ⟨hfit, by simpa using hop⟩

/-- Settles O56: of the kinds of accepted packets, only a row has a condition, and its operands come from the payload
that the length byte counts. -/
theorem acceptedPacketsAreWellFormed : Obligations.AcceptedPacketsAreWellFormed := by
  unfold Obligations.AcceptedPacketsAreWellFormed
  intro p i h
  rcases decode_ok_cases p i h with ⟨d, rfl⟩ | ⟨op, pay, hlen, rfl⟩ | ⟨en, v, c, ovp, ocp, rfl⟩ | ⟨rx, rfl⟩ |
    ⟨op, len, pay, hlen, rfl⟩ | ⟨op, len, r, hlen, rfl⟩
  · rfl
  · exact (fitsFrame_iff pay).mpr hlen
  · rfl
  · rfl
  · exact wellFormed_requestInstr op hlen
  · exact wellFormed_replyInstr op hlen

/-! ### Words of the spec -/

/-- Settles O2: GEN_SET by its byte form, a request or reply frame by the row its header leads to. -/
theorem wordsOfTheSpecDecode : Obligations.WordsOfTheSpecDecode := by
  unfold Obligations.WordsOfTheSpecDecode
  refine ⟨rfl, ?_, ?_, ?_, ?_, ?_, ?_⟩
  · exact decodeGenSet_operands true 5000#16 1000#16 30500#16 5050#16
  · exact decode_requestFrame 0x30#8 0#8 [] 0x31#8 0x0F#8 rfl
  · exact decode_requestFrame 0x35#8 10#8 (basicsetPayload 0x20#8 1#8 5000#16 1000#16 30500#16 5050#16) 0xC1#8 0x85#8
      rfl
  · exact decode_replyBytes 0x50#8 ⟨0#8, [1#8, 2#8, 3#8], 0xBA5D#16, []⟩ rfl
  · exact decode_replyBytes 0x35#8 ⟨0#8, [1#8], 0x8833#16, []⟩ rfl
  · exact decode_replyBytes 0x40#8 ⟨0#8, [0x04#8, 0x1A#8, 0x04#8, 0x20#8, 0x03#8, 0x03#8], 0x6A1A#16, []⟩ rfl

/-- Settles O5: each selector is that of one command, with operands at any value. -/
theorem everySelectorIsACommand : Obligations.EverySelectorIsACommand := by
  unfold Obligations.EverySelectorIsACommand
  intro sel
  have assigned : sel = 0#2 ∨ sel = 1#2 ∨ sel = 2#2 ∨ sel = 3#2 := by revert sel; decide
  rcases assigned with rfl | rfl | rfl | rfl
  · exact ⟨[], .crc16 [], rfl, fun _ => ⟨_, rfl⟩, nofun, nofun, nofun⟩
  · exact ⟨[0#8], .encode 0#8 [], rfl, nofun, fun _ => ⟨_, _, rfl⟩, nofun, nofun⟩
  · exact ⟨List.replicate 9 0#8, .genSet false 0#16 0#16 0#16 0#16, rfl, nofun, nofun, fun _ => ⟨_, _, _, _, _, rfl⟩,
      nofun⟩
  · exact ⟨[], .decode [], rfl, nofun, nofun, nofun, fun _ => ⟨_, rfl⟩⟩

/-! ### Rows with a mask of their own -/

/-- Two rows that disagree on a bit that both test have no header in common. -/
theorem not_fits_both {a b : Header × Header} (h : a.1 &&& b.2 ≠ b.1 &&& a.2) (w : Header) :
    ¬ (w &&& a.2 = a.1 ∧ w &&& b.2 = b.1) := fun ⟨ha, hb⟩ => h <|
  calc a.1 &&& b.2 = w &&& a.2 &&& b.2 := by rw [ha]
    _ = w &&& b.2 &&& a.2 := by ac_rfl
    _ = b.1 &&& a.2 := by rw [hb]

/-- Settles O3: the thirteen match and mask pairs are compared two by two, on the bits both test. -/
theorem exactRowsAreMutuallyExclusive : Obligations.ExactRowsAreMutuallyExclusive := by
  unfold Obligations.ExactRowsAreMutuallyExclusive
  have disagree : (requestRows.map (fun r => (r.value, r.mask)) ++
      (replyRows.take 5).map (fun r => (r.value, r.mask))).Pairwise (fun a b => a.1 &&& b.2 ≠ b.1 &&& a.2) := by decide
  exact disagree.imp fun h w => not_fits_both h w

end Sys2Proof.Proofs

/-! SUPPORT. The statements on every step: what it runs and where it stops, that it keeps the invariant (10_state.md
R23, R31), and how a host that keeps the order moves PHASE (10_state.md R33). -/

namespace Sys2Proof.Proofs

open Sys2Proof Sys2Proof.Machine Sys2Proof.Claims

/-! ### Where a step leads -/

theorem step_nil {s : State} (h : TakesMoves s) (hm : s.moves = []) : step s = .next s := by
  rw [takesMoves_iff] at h
  simp [step, h, hm]

theorem step_issue_error {s : State} {p : Packet} {e : Reject} {rest : List HostMove} (h : TakesMoves s)
    (hm : s.moves = .issue p :: rest) (hd : decode p = .error e) : step s = .refused (.badPacket e) := by
  rw [takesMoves_iff] at h
  simp [step, issue, h, hm, hd]

/-- Settles O8: a step without a move. -/
theorem noMoveNoChange : Obligations.NoMoveNoChange := fun _ => step_nil

/-- Settles O6: a step whose move is a packet; that the instruction is well-formed follows from the packet. -/
theorem stepRunsTheDecodedInstruction : Obligations.StepRunsTheDecodedInstruction :=
  fun _ _ _ _ ht hm hd _ => step_issue ht hm hd

/-- Settles O4: a packet that is accepted runs, whatever it is. -/
theorem acceptedPacketsRun : Obligations.AcceptedPacketsRun := by
  unfold Obligations.AcceptedPacketsRun
  intro p i s hd
  obtain ⟨t, hrun, -⟩ := decoded_runs p i s hd
  exact ⟨t, hrun⟩

theorem eq_readHangs_of_hostAct_fault {a : HostAct} {s : State} {f : Fault} (h : hostAct a s = .fault f) :
    a = .readHangs := by
  cases a with
  | readHangs => rfl
  | send _ | recv | read _ | reset | readFails => cases h

theorem hostAct_ne_refused (a : HostAct) (s : State) (why : Refusal) : hostAct a s ≠ .refused why := by
  cases a <;> exact nofun

/-- Settles O7: a packet that is accepted runs, and an act of the host's stops only where the read hangs. -/
theorem stepStopsOnlyWhereNamed : Obligations.StepStopsOnlyWhereNamed := by
  unfold Obligations.StepStopsOnlyWhereNamed
  intro s
  by_cases ht : TakesMoves s
  · cases hm : s.moves with
    | nil => rw [step_nil ht hm]; exact ⟨nofun, nofun⟩
    | cons m rest =>
      cases m with
      | issue p =>
        cases hd : decode p with
        | ok i =>
          obtain ⟨t, hrun⟩ := acceptedPacketsRun p i (s.setMoves rest) hd
          rw [step_issue ht hm hd, hrun]
          exact ⟨nofun, nofun⟩
        | error e =>
          rw [step_issue_error ht hm hd]
          exact ⟨nofun, fun why hw => ⟨p, rest, e, rfl, hd, (Host.Outcome.refused.inj hw).symm⟩⟩
      | act a =>
        rw [step_act ht hm]
        exact ⟨fun f hf => ⟨rest, by rw [eq_readHangs_of_hostAct_fault hf]⟩,
          fun why hw => absurd hw (hostAct_ne_refused a _ why)⟩
  · rw [step_of_not_takesMoves ht]
    exact ⟨nofun, nofun⟩

/-! ### The invariant -/

/-- The invariant speaks of the records and RESULT alone. -/
theorem inv_congr {s t : State} (h : Safety.Inv s) (hd : t.dsm = s.dsm) (hr : t.result = s.result) : Safety.Inv t :=
  ⟨hd ▸ h.text, hd ▸ h.serial, hr ▸ h.result⟩

/-- Settles O47: the reset text is empty, the serial number eleven zero bytes, and RESULT the reset pair. -/
theorem invariantHoldsAfterReset : Obligations.InvariantHoldsAfterReset where
  text := ⟨by decide, List.not_mem_nil, rfl⟩
  serial := rfl
  result := rfl

/-- Before the checksum has vouched for byte 1, RESULT carries no operation code. -/
theorem resultLegal_of_early {k : ResultKind} (hk : k ∈ [ResultKind.shortBuffer, .ignored, .crcError]) :
    Safety.ResultLegal (resultOf k 0#8) := by
  simp only [List.mem_cons, List.not_mem_nil, or_false] at hk
  rcases hk with rfl | rfl | rfl <;> rfl

/-- An extractor's answer leaves a pair of 60_exceptions.md R221 to R226 in RESULT. -/
theorem resultLegal_of_answers {op : Byte} {x : Except ResultKind Update} (h : Answers op x) :
    Safety.ResultLegal (resultOf (endKind x) op) := by
  have extracted (o : Byte) (ho : o ∈ Params.extractedOps) : Safety.ResultLegal (resultOf .updated o) := ho
  rcases h with ⟨rfl, hop⟩ | ⟨rfl, hop⟩ | ⟨rfl, hop⟩ | ⟨rfl, d, rfl, -⟩ | ⟨rfl, b, rfl⟩ | ⟨rfl, ⟨b, rfl⟩ | rfl⟩ |
    ⟨rfl, b, rfl⟩
  · exact hop
  · exact hop
  · exact hop
  all_goals exact extracted _ (by decide)

/-- The device-info record after an extractor's answer: the old one, or one whose text and serial number have their
form. -/
theorem endDsm_deviceInfo_of_answers {op : Byte} {x : Except ResultKind Update} (d : Dsm) (h : Answers op x) :
    (endDsm d x).deviceInfo = d.deviceInfo ∨
      Safety.TextLegal (endDsm d x).deviceInfo.devType ∧ (endDsm d x).deviceInfo.sn.length = 11 := by
  rcases h with ⟨rfl, -⟩ | ⟨rfl, -⟩ | ⟨rfl, -⟩ | ⟨-, r, rfl, htext, hserial⟩ | ⟨-, b, rfl⟩ | ⟨-, ⟨b, rfl⟩ | rfl⟩ |
    ⟨-, b, rfl⟩
  case inr.inr.inr.inl => exact .inr ⟨htext, hserial⟩
  all_goals exact .inl rfl

theorem inv_of_decodeEnds {s t : State} (h : Safety.Inv s) (he : DecodeEnds s t) : Safety.Inv t := by
  rcases he with ⟨k, hk, rfl⟩ | ⟨v, x, hx, rfl⟩
  · exact ⟨h.text, h.serial, resultLegal_of_early hk⟩
  · rcases endDsm_deviceInfo_of_answers s.dsm hx with hsame | ⟨htext, hserial⟩
    · refine ⟨?_, ?_, resultLegal_of_answers hx⟩
      · rw [conclude_dsm, setDsm_dsm, hsame]; exact h.text
      · rw [conclude_dsm, setDsm_dsm, hsame]; exact h.serial
    · exact ⟨htext, hserial, resultLegal_of_answers hx⟩

theorem hostAct_keeps_inv {a : HostAct} {s t : State} (h : Safety.Inv s) (ha : hostAct a s = .next t) :
    Safety.Inv t := by
  by_cases hr : a = .reset
  · subst hr
    obtain rfl := Host.Outcome.next.inj ha
    exact inv_congr invariantHoldsAfterReset rfl rfl
  · obtain ⟨hd, hres⟩ := hostAct_keeps_codec hr ha
    exact inv_congr h hd hres

/-- Settles O48: of the ways a step can go, the end of a DECODE writes what an extractor may answer, a reset starts
anew, and every other one leaves the records and RESULT. -/
theorem everyStepKeepsTheInvariant : Obligations.EveryStepKeepsTheInvariant := by
  unfold Obligations.EveryStepKeepsTheInvariant
  intro s t hinv h
  have hrest (rest : List HostMove) : Safety.Inv (s.setMoves rest) := inv_congr hinv rfl rfl
  rcases step_cases s t h with ⟨-, rfl⟩ | ⟨-, -, rfl⟩ | ⟨-, p, rest, i, -, -, -, ⟨o, rfl⟩ | hends⟩ |
    ⟨-, a, rest, -, hact⟩
  · exact inv_congr hinv rfl rfl
  · exact hinv
  · exact inv_congr hinv rfl rfl
  · exact inv_of_decodeEnds (hrest rest) hends
  · exact hostAct_keeps_inv (hrest rest) hact

/-! ### No command reads PHASE -/

theorem buildRequest_of_any_state (op : Byte) (pay : List Byte) :
    (∃ o, ∀ s, buildRequest op pay s = .next (s.setOut o)) ∨ ∃ why, ∀ s, buildRequest op pay s = .refused why := by
  rcases Nat.lt_or_ge 255 pay.length with hl | hl
  · exact .inr ⟨.payloadTooLong, fun s => buildRequest_of_gt op pay s hl⟩
  · exact .inl ⟨_, fun s => buildRequest_of_le op pay s hl⟩

/-- What an instruction that does not receive hands back, or that it refuses, does not depend on the state. -/
theorem exec_of_not_receives {i : Instr} (hi : receives i = false) :
    (∃ o, ∀ s, exec i s = .next (s.setOut o)) ∨ ∃ why, ∀ s, exec i s = .refused why := by
  cases i with
  | crc16 _ | genSet _ _ _ _ _ => exact .inl ⟨_, fun _ => rfl⟩
  | encode op pay => exact buildRequest_of_any_state op pay
  | reqNone pay | reqScanout pay | reqSerialout pay => exact buildRequest_of_any_state _ pay
  | reqDeviceinfo | reqBasicinfo | reqSysteminfo => exact buildRequest_of_any_state _ []
  | reqBasicsetModify mode en v cur ovp ocp => exact buildRequest_of_any_state _ (basicsetPayload mode en v cur ovp ocp)
  | reqBasicsetActivate mode => exact buildRequest_of_any_state _ [mode]
  | _ => cases hi

/-- Settles O53: a receiving instruction ends in a way that its operands fix, and so does every other one. -/
theorem noCommandReadsThePhase : Obligations.NoCommandReadsThePhase := by
  unfold Obligations.NoCommandReadsThePhase
  intro i s t p h
  cases hi : receives i with
  | true =>
    obtain ⟨x, op, view, -, he⟩ := exec_endsDecode_of_receives hi
    obtain rfl := Host.Outcome.next.inj ((he s).symm.trans h)
    exact ⟨_, he _, rfl, rfl, rfl, rfl⟩
  | false =>
    rcases exec_of_not_receives hi with ⟨o, ho⟩ | ⟨why, hw⟩
    · obtain rfl := Host.Outcome.next.inj ((ho s).symm.trans h)
      exact ⟨_, ho _, rfl, rfl, rfl, rfl⟩
    · exact absurd ((hw s).symm.trans h) nofun

/-! ### A host that keeps the order -/

theorem receives_replyInstr (op len : Byte) (r : Reply) : receives (replyInstr op len r) = true := by
  unfold replyInstr
  split_ifs <;> rfl

/-- A frame packet with another marker than the host's is a reply row, or DECODE of its bytes (log entry 9). -/
theorem decode_frame_receives {bytes : List Byte} (h : byteAt bytes 0 ≠ Params.markH2D) :
    ∃ i, decode (.frame bytes) = .ok i ∧ receives i = true := by
  rcases bytes with _ | ⟨m, _ | ⟨op, _ | ⟨rsv, _ | ⟨len, rest⟩⟩⟩⟩
  · exact ⟨.decode [], rfl, rfl⟩
  · exact ⟨.decode [m], if_neg h, rfl⟩
  · exact ⟨.decode [m, op], if_neg h, rfl⟩
  · exact ⟨.decode [m, op, rsv], if_neg h, rfl⟩
  · by_cases hwhole : m = Params.markD2H ∧ len.toNat + Params.crcLen ≤ rest.length
    · obtain ⟨rfl, hlen⟩ := hwhole
      exact ⟨_, decodeFrame_reply op rsv len rest hlen, receives_replyInstr op len _⟩
    · exact ⟨.decode (m :: op :: rsv :: len :: rest), (if_neg h).trans (if_neg hwhole), rfl⟩

/-- A DECODE in AwaitingReply judges the reply, 10_state.md R33. -/
theorem step_phase_of_receives {s t : State} {p : Packet} {i : Instr} {rest : List HostMove} (h : step s = .next t)
    (hp : s.phase = .awaitingReply) (hm : s.moves = .issue p :: rest) (hd : decode p = .ok i)
    (hi : receives i = true) : t.phase = if t.result.kind = .updated then .decoded else .rejected := by
  have ht : TakesMoves s := by simp [TakesMoves, hp]
  have hphase := exec_phase (s := s.setMoves rest) ((step_issue ht hm hd).symm.trans h)
  rwa [if_pos ⟨hi, hp⟩] at hphase

/-- Settles O52: the order gives each of these moves the phase its edge of the cycle starts from. -/
theorem orderlyMovesAdvanceThePhase : Obligations.OrderlyMovesAdvanceThePhase := by
  unfold Obligations.OrderlyMovesAdvanceThePhase
  intro s t m rest ht hm hord h
  refine ⟨?send, ?recv, ?command, ?frame⟩
  case send =>
    rintro tx rfl
    exact (step_act_phase ht h hm).trans (if_pos hord)
  case recv =>
    rintro rfl
    exact (step_act_phase ht h hm).trans (if_pos hord)
  case command =>
    rintro rx rfl
    have hp : s.phase = .awaitingReply := hord.1
    rw [step_phase_of_receives h hp hm rfl rfl]
    exact ite_eq_or_eq _ _ _
  case frame =>
    rintro bytes hb rfl
    obtain ⟨i, hd, hi⟩ := decode_frame_receives hb
    rw [step_phase_of_receives h (hord hb).1 hm hd hi]
    exact ite_eq_or_eq _ _ _

theorem step_send {s : State} {tx : List Byte} {rest : List HostMove} (hp : s.phase = .idle)
    (hm : s.moves = .act (.send tx) :: rest) (hb : builtByEncode tx = true) :
    step s = .next { s with phase := .frameSent, moves := rest } := by
  have ht : TakesMoves s := by simp [TakesMoves, hp]
  have hphase : phaseOnSend tx s.phase = .frameSent := (phaseOnSend_eq tx s.phase).trans (if_pos ⟨hp, hb⟩)
  rw [step_act ht hm, hostAct, setMoves_phase, hphase]
  rfl

theorem step_recv {s : State} {rest : List HostMove} (hp : s.phase = .frameSent) (hm : s.moves = .act .recv :: rest) :
    step s = .next { s with phase := .awaitingReply, moves := rest } := by
  have ht : TakesMoves s := by simp [TakesMoves, hp]
  have hphase : phaseOnRecv s.phase = .awaitingReply := (phaseOnRecv_eq s.phase).trans (if_pos hp)
  rw [step_act ht hm, hostAct, setMoves_phase, hphase]
  rfl

/-- Settles O51: the send and the read move PHASE alone, the DECODE ends in one of the two phases of a judged reply, and
the step from there closes the cycle. -/
theorem oneCyclePassesThroughItsPhases : Obligations.OneCyclePassesThroughItsPhases := by
  unfold Obligations.OneCyclePassesThroughItsPhases
  intro s tx p i rest hp hm hbuilt hd hi
  have hsend := step_send hp hm hbuilt
  have hrecv := step_recv (s := { s with phase := .frameSent, moves := .act .recv :: .issue p :: rest }) rfl rfl
  obtain ⟨c, hrun, -⟩ := decoded_runs p i { s with phase := .awaitingReply, moves := rest } hd
  have hdecode : step { s with phase := .awaitingReply, moves := .issue p :: rest } = .next c :=
    (step_issue ((takesMoves_iff _).mpr rfl) rfl hd).trans hrun
  have hphase := step_phase_of_receives hdecode rfl rfl hd hi
  have hover : ¬ TakesMoves c := by
    rw [TakesMoves, hphase]
    split <;> simp
  have hmoves : c.moves = rest := by
    obtain ⟨x, op, view, -, rfl⟩ := exec_next_of_receives hi hrun
    rfl
  exact ⟨_, _, c, hsend, rfl, hrecv, rfl, rfl, rfl, hdecode, hphase, step_of_not_takesMoves hover, hmoves⟩

end Sys2Proof.Proofs

/-! SUPPORT. The statements on the residue test (40_crc.md section 2) and on what the builders hand back or refuse
(41_frame_build.md). -/

namespace Sys2Proof.Proofs

open Sys2Proof Sys2Proof.Machine Sys2Proof.Claims

/-! ### The residue test -/

/-- Two bytes take the register to zero only when they are the register, low byte first: the register that they are is
one that they take to zero, and no other is. -/
theorem byteTurn_byteTurn_eq_zero_iff (c : Word) (lo hi : Byte) :
    byteTurn (byteTurn c lo) hi = 0#16 ↔ lo = lo8 c ∧ hi = hi8 c := by
  constructor
  · intro h
    have hown : byteTurn (byteTurn (le16 lo hi) lo) hi = 0#16 := by simpa using byteTurn_lo8_hi8 (le16 lo hi)
    have hc : c = le16 lo hi := byteTurn_injective lo (byteTurn_injective hi (h.trans hown.symm))
    simp [hc]
  · rintro ⟨rfl, rfl⟩
    exact byteTurn_lo8_hi8 c

/-- The residue test and the comparison of the trailing bytes, 40_crc.md R136 (b). -/
theorem crc16_append_pair_eq_zero_iff (d : List Byte) (lo hi : Byte) :
    crc16 (d ++ [lo, hi]) = 0#16 ↔ [lo, hi] = [lo8 (crc16 d), hi8 (crc16 d)] := by
  have hfold : crc16 (d ++ [lo, hi]) = byteTurn (byteTurn (crc16 d) lo) hi := crc16_append d [lo, hi]
  rw [hfold, byteTurn_byteTurn_eq_zero_iff]
  simp

/-- Settles O11: the loop continues, and its two last turns lead to zero exactly on the register's own bytes; the
printed value is evaluated. -/
theorem residueTestIsTheTrailingByteTest : Obligations.ResidueTestIsTheTrailingByteTest := by
  unfold Obligations.ResidueTestIsTheTrailingByteTest
  refine ⟨crc16_append, crc16_sealBytes, fun f hlen => ?_, (crc16_eq_tableCrc _).trans (by decide)⟩
  obtain ⟨lo, hi, htail⟩ : ∃ lo hi, f.drop (f.length - 2) = [lo, hi] := List.length_eq_two.mp (by simp; omega)
  have hsplit : f = f.take (f.length - 2) ++ [lo, hi] := by rw [← htail, List.take_append_drop]
  rw [htail, ← crc16_append_pair_eq_zero_iff, ← hsplit]

/-! ### What the builders hand back -/

/-- Settles O16: the three rows are the shared build operation on no payload, and their frames are evaluated. -/
theorem informationRequestsAreTheseBytes : Obligations.InformationRequestsAreTheseBytes := by
  unfold Obligations.InformationRequestsAreTheseBytes
  intro s
  refine ⟨?_, ?_, ?_⟩
  · exact buildRequest_of_tableCrc 0x10#8 [] s (by decide) (by decide)
  · exact buildRequest_of_tableCrc 0x30#8 [] s (by decide) (by decide)
  · exact buildRequest_of_tableCrc 0x40#8 [] s (by decide) (by decide)

/-- Settles O14: the meanings by the shared build operation, the decoder by its own length test. -/
theorem overlongPayloadIsRefused : Obligations.OverlongPayloadIsRefused := by
  unfold Obligations.OverlongPayloadIsRefused
  intro op pay s h
  have hfit : ¬ fitsFrame pay = true := by rw [fitsFrame_iff]; omega
  exact ⟨buildRequest_of_gt op pay s h, buildRequest_of_gt 0x00#8 pay s h, buildRequest_of_gt 0x50#8 pay s h,
    buildRequest_of_gt 0x55#8 pay s h, if_neg hfit⟩

/-- Settles O19: the ten payload bytes are the operands', and the row is the shared build operation on them. -/
theorem settingsRequestIsBuiltForEveryModeByte : Obligations.SettingsRequestIsBuiltForEveryModeByte := by
  unfold Obligations.SettingsRequestIsBuiltForEveryModeByte
  intro mode en v i ovp ocp s
  exact ⟨basicsetPayload mode en v i ovp ocp, rfl, rfl, le16_lo8_hi8 v, le16_lo8_hi8 i, le16_lo8_hi8 ovp,
    le16_lo8_hi8 ocp, buildRequest_buildsFrame 0x35#8 _ s (by simp [basicsetPayload])⟩

/-- Built by ENCODE means equal to some frame that ENCODE builds: a built frame shows its own operation code and
payload. -/
theorem builtByEncode_iff (tx : List Byte) :
    builtByEncode tx = true ↔ ∃ op pay, pay.length ≤ 255 ∧ tx = frameOf 0xFB#8 op pay := by
  have hshown : builtByEncode tx = true ↔ tx = frameOf 0xFB#8 (byteAt tx 1) (payloadOf tx) := decide_eq_true_iff
  rw [hshown]
  constructor
  · intro htx
    have hlen : (payloadOf tx).length ≤ lengthByte tx := List.length_take_le _ _
    exact ⟨_, _, hlen.trans (Nat.le_of_lt_succ (byteAt tx 3).isLt), htx⟩
  · rintro ⟨op, pay, hlen, rfl⟩
    rw [payloadOf_frameOf _ _ _ hlen]
    rfl

/-- Settles O22: ENCODE hands back the frame of its operands. -/
theorem builtFramesAreTheResultsOfEncode : Obligations.BuiltFramesAreTheResultsOfEncode := by
  unfold Obligations.BuiltFramesAreTheResultsOfEncode
  intro tx s
  rw [builtByEncode_iff]
  refine exists₂_congr fun op pay => and_congr_right fun hlen => ?_
  have hrun : exec (.encode op pay) s = .next { s with out := .frame (frameOf 0xFB#8 op pay) } :=
    buildRequest_of_le op pay s hlen
  rw [hrun]
  simp [eq_comm]

end Sys2Proof.Proofs

/-! SUPPORT. The statements on the reply rows (43_payload_decode.md): what the extractors answer, the end of a vouched
reply, and that a row is DECODE of its buffer (42_frame_parse.md). -/

namespace Sys2Proof.Proofs

open Sys2Proof Sys2Proof.Machine Sys2Proof.Claims

/-! ### What the extractors answer -/

/-- The nine fields of a device-info reply with well-formed text, 30_encoding.md R103. -/
theorem xDeviceinfo_ok {p : List Byte} (h : p.length = 38) (ht : utf8Wellformed (devtypeText p) = true) :
    xDeviceinfo p = .ok (.deviceInfo
      { devType := devtypeText p, hwVer := field p 15, appVer := field p 17, bootVer := field p 19,
        runArea := field p 21, sn := (p.drop 23).take 11, year := field p 34, month := byteAt p 36,
        day := byteAt p 37 }) := by
  have hfits : ¬ lengthFits p Params.deviceInfo.len = false := by simp [Params.deviceInfo, h]
  exact (if_neg hfits).trans (if_neg (by simp [ht]))

theorem xDeviceinfo_decodeError {p : List Byte} (h : p.length = 38) (ht : utf8Wellformed (devtypeText p) = false) :
    xDeviceinfo p = .error .decodeError := by
  have hfits : ¬ lengthFits p Params.deviceInfo.len = false := by simp [Params.deviceInfo, h]
  exact (if_neg hfits).trans (if_pos ht)

theorem xDeviceinfo_violation {p : List Byte} (h : p.length ≠ 38) : xDeviceinfo p = .error .protocolViolation :=
  if_pos ((lengthFits_eq_false_iff p 38).2 h)

theorem xSysteminfo_violation {p : List Byte} (h : p.length ≠ 6) : xSysteminfo p = .error .protocolViolation :=
  if_pos ((lengthFits_eq_false_iff p 6).2 h)

/-- A code without extractor, 42_frame_parse.md R177. -/
theorem dispatch_unrecognized {v : View} (h : v.op ∉ [0x10#8, 0x30#8, 0x35#8, 0x40#8]) :
    dispatch v = .error .unrecognized := by
  rcases dispatch_cases v with ⟨ho, -⟩ | ⟨ho, -⟩ | ⟨ho, -⟩ | ⟨ho, -⟩ | ⟨-, hd⟩
  case inr.inr.inr.inr => exact hd
  all_goals exact absurd (by simp [ho]) h

/-! ### The replies -/

/-- An extractor's error, or the lack of an extractor, makes the reply row reject. -/
theorem checkedReply_rejects {op : Byte} {r : Reply} {x : Except ResultKind Update} {k : ResultKind}
    (hv : Vouched op r) (hk : k ≠ .updated) (hx : x = .error k) (s : State) :
    checkedReply op r x s = rejects s (resultOf k op) (some (viewOf op r)) := by
  rw [checkedReply_of_vouched hv, hx, endDecode_error hk]

/-- Settles O37: the extractor tests the length, then the text, and the row ends on its answer. -/
theorem deviceInfoReplyReplacesItsRecord : Obligations.DeviceInfoReplyReplacesItsRecord := by
  unfold Obligations.DeviceInfoReplyReplacesItsRecord
  intro r s hv
  refine ⟨fun hlen ht => ?_, fun hlen ht => ?_, fun hlen => ?_⟩
  · exact congrArg _ (checkedReply_accepts hv (xDeviceinfo_ok hlen ht) s)
  · exact congrArg _ (checkedReply_rejects hv (by decide) (xDeviceinfo_decodeError hlen ht) s)
  · exact congrArg _ (checkedReply_violation hv (xDeviceinfo_violation hlen) s)

/-- Settles O38: the extractor answers four fields or a violation by the length alone. -/
theorem systemInfoReplyReplacesItsRecord : Obligations.SystemInfoReplyReplacesItsRecord := by
  unfold Obligations.SystemInfoReplyReplacesItsRecord
  intro r s hv
  constructor
  · intro hlen
    exact congrArg _ (checkedReply_accepts hv (xSysteminfo_ok r.payload hlen) s)
  · intro hlen
    exact congrArg _ (checkedReply_violation hv (xSysteminfo_violation hlen) s)

/-- Settles O39: with ten payload bytes the extractor answers six fields. -/
theorem basicSetReplyReplacesItsRecord : Obligations.BasicSetReplyReplacesItsRecord := by
  unfold Obligations.BasicSetReplyReplacesItsRecord
  intro r s hv hlen
  exact congrArg _ (checkedReply_accepts hv (xBasicset_ok r.payload hlen) s)

/-- Settles O42: the four rows answer Unrecognized for any payload, and DECODE of an intact frame comes to the dispatch,
which does so too. -/
theorem codesWithoutExtractorAreUnrecognized : Obligations.CodesWithoutExtractorAreUnrecognized := by
  unfold Obligations.CodesWithoutExtractorAreUnrecognized
  have row {op : Byte} {r : Reply} (hv : Vouched op r) (s : State) :
      checkedReply op r (.error .unrecognized) s = rejects s ⟨.unrecognized, op⟩ (some (viewOf op r)) :=
    checkedReply_rejects hv (by decide) rfl s
  refine ⟨fun r s => ⟨fun hv => ?_, fun hv => ?_, fun hv => ?_, fun op _ hv => ?_⟩, fun rx s hrx hop => ?_⟩
  · exact congrArg _ (row hv s)
  · exact congrArg _ (row hv s)
  · exact congrArg _ (row hv s)
  · exact congrArg _ (row hv s)
  · rw [exec_decode_of_parse_ok (parse_of_intact hrx) s, dispatch_unrecognized hop]
    exact congrArg _ (endDecode_error (by decide) s (byteAt rx 1) _)

/-! ### A reply row and its buffer -/

theorem replyFrameBytes_length (op : Byte) (r : Reply) : (replyFrameBytes op r).length = 6 + r.payload.length := by
  simp [replyFrameBytes]
  omega

theorem lengthByte_replyFrameBytes (op : Byte) {r : Reply} (h : fitsFrame r.payload = true) (tail : List Byte) :
    lengthByte (replyFrameBytes op r ++ tail) = r.payload.length :=
  toNat_ofNat_length h

theorem payloadOf_replyFrameBytes (op : Byte) {r : Reply} (h : fitsFrame r.payload = true) (tail : List Byte) :
    payloadOf (replyFrameBytes op r ++ tail) = r.payload := by
  rw [payloadOf, lengthByte_replyFrameBytes op h]
  simp [replyFrameBytes]

/-- The extent that the header announces is the reply, whatever stands behind it, 42_frame_parse.md R180. -/
theorem take_extent_replyFrameBytes (op : Byte) {r : Reply} (h : fitsFrame r.payload = true) (tail : List Byte) :
    (replyFrameBytes op r ++ tail).take (6 + lengthByte (replyFrameBytes op r ++ tail)) = replyFrameBytes op r := by
  rw [lengthByte_replyFrameBytes op h, ← replyFrameBytes_length op r, List.take_left]

theorem extent_le_replyFrameBytes (op : Byte) {r : Reply} (h : fitsFrame r.payload = true) (tail : List Byte) :
    6 + lengthByte (replyFrameBytes op r ++ tail) ≤ (replyFrameBytes op r ++ tail).length := by
  rw [lengthByte_replyFrameBytes op h, List.length_append, replyFrameBytes_length]
  omega

/-- A reply whose checksum is right is parsed to its view. -/
theorem parse_replyFrameBytes {op : Byte} {r : Reply} (h : fitsFrame r.payload = true) (hv : Vouched op r)
    (tail : List Byte) : parse (replyFrameBytes op r ++ tail) = .ok (viewOf op r) := by
  have hintact : Intact (replyFrameBytes op r ++ tail) :=
    ⟨rfl, extent_le_replyFrameBytes op h tail, by rw [take_extent_replyFrameBytes op h, hv]⟩
  rw [parse_of_intact hintact, payloadOf_replyFrameBytes op h]
  rfl

theorem parse_replyFrameBytes_of_not_vouched {op : Byte} {r : Reply} (h : fitsFrame r.payload = true)
    (hv : ¬ Vouched op r) (tail : List Byte) : parse (replyFrameBytes op r ++ tail) = .error .crcError :=
  parse_of_crc16_ne rfl (extent_le_replyFrameBytes op h tail) (by rwa [take_extent_replyFrameBytes op h])

/-- A well-formed reply row holds a payload that a frame can carry. -/
theorem fitsFrame_of_replyOf {i : Instr} {op : Byte} {r : Reply} (hw : WellFormed i = true)
    (hr : replyOf i = some (op, r)) : fitsFrame r.payload = true := by
  have fits {n : Nat} (hn : n ≤ 255) (hlen : (r.payload.length == n) = true) : fitsFrame r.payload = true :=
    (fitsFrame_iff _).mpr (beq_iff_eq.mp hlen ▸ hn)
  cases i with
  | rspDeviceinfo _ | rspBasicinfo _ | rspBasicset _ | rspBasicsetAck _ | rspSysteminfo _ =>
    cases hr; exact fits (by decide) hw
  | rspBadlenDeviceinfo _ | rspBadlenBasicinfo _ | rspBadlenSysteminfo _ | rspUnassigned _ _ =>
    cases hr; exact (Bool.and_eq_true_iff.mp hw).1
  | rspBadlenBasicset _ => cases hr; exact (Bool.and_eq_true_iff.mp (Bool.and_eq_true_iff.mp hw).1).1
  | rspNone _ | rspScanout _ | rspSerialout _ => cases hr; exact hw
  | _ => cases hr

/-- Every well-formed reply row ends on what the dispatch answers for its view. -/
theorem exec_of_wellFormed_replyOf {i : Instr} {op : Byte} {r : Reply} (hw : WellFormed i = true)
    (hr : replyOf i = some (op, r)) (s : State) : exec i s = .next (checkedReply op r (dispatch (viewOf op r)) s) := by
  cases i with
  | rspUnassigned op r =>
    cases hr
    have hop : op ∉ Params.enumeratedOps := by simpa using (Bool.and_eq_true_iff.mp hw).2
    have hsub : [0x10#8, 0x30#8, 0x35#8, 0x40#8] ⊆ Params.enumeratedOps := by decide
    rw [dispatch_unrecognized (v := viewOf op r) fun hmem => hop (hsub hmem)]
    rfl
  | rspDeviceinfo _ | rspBasicinfo _ | rspBasicset _ | rspBasicsetAck _ | rspSysteminfo _ | rspBadlenDeviceinfo _
  | rspBadlenBasicinfo _ | rspBadlenBasicset _ | rspBadlenSysteminfo _ | rspNone _ | rspScanout _ | rspSerialout _ =>
    cases hr; rfl
  | _ => cases hr

/-- Settles O34: the parser finds the row's operands in the buffer, and the row's answer is the dispatch's. -/
theorem replyRowsAreDecodeOfTheirBuffer : Obligations.ReplyRowsAreDecodeOfTheirBuffer := by
  unfold Obligations.ReplyRowsAreDecodeOfTheirBuffer
  intro i op r s hw hr
  have hfit := fitsFrame_of_replyOf hw hr
  rw [exec_of_wellFormed_replyOf hw hr s]
  by_cases hv : Vouched op r
  · rw [checkedReply_of_vouched hv, exec_decode_of_parse_ok (parse_replyFrameBytes hfit hv r.trailing)]
    rfl
  · rw [checkedReply_of_not_vouched hv,
      exec_decode_of_parse_error (parse_replyFrameBytes_of_not_vouched hfit hv r.trailing)]

end Sys2Proof.Proofs

/-! SUPPORT. The statements on DECODE of any buffer (42_frame_parse.md, 60_exceptions.md): what it depends on, what an
error leaves, and the one kind it ends in. -/

namespace Sys2Proof.Proofs

open Sys2Proof Sys2Proof.Machine Sys2Proof.Claims

/-! ### What a DECODE depends on -/

/-- An answer's update writes its record whole, so writing it again changes nothing, 20_memory.md R71. -/
theorem endDsm_endDsm (d : Dsm) (x : Except ResultKind Update) : endDsm (endDsm d x) x = endDsm d x := by
  cases x with
  | error k => rfl
  | ok u => cases u <;> rfl

/-- Settles O30: both runs end on the same answer, and writing it twice is writing it once. -/
theorem decodeIsIdempotent : Obligations.DecodeIsIdempotent := by
  unfold Obligations.DecodeIsIdempotent
  intro rx s t u hs ht
  obtain ⟨x, op, view, -, he⟩ := execDecode_endsDecode rx
  obtain rfl := Host.Outcome.next.inj ((he s).symm.trans hs)
  obtain rfl := Host.Outcome.next.inj ((he _).symm.trans ht)
  exact ⟨endDsm_endDsm s.dsm x, rfl, rfl⟩

/-- Settles O31: the answer a DECODE ends on is the same from both states. -/
theorem decodeDependsOnTheBufferAlone : Obligations.DecodeDependsOnTheBufferAlone := by
  unfold Obligations.DecodeDependsOnTheBufferAlone
  intro rx s s' t t' hs hs'
  obtain ⟨x, op, view, -, he⟩ := execDecode_endsDecode rx
  obtain rfl := Host.Outcome.next.inj ((he s).symm.trans hs)
  obtain rfl := Host.Outcome.next.inj ((he s').symm.trans hs')
  exact ⟨rfl, rfl, congrArg (endDsm · x)⟩

/-- Settles O32: an end other than Updated comes from an error, and an error carries no update. -/
theorem errorsLeaveEveryRecord : Obligations.ErrorsLeaveEveryRecord := by
  unfold Obligations.ErrorsLeaveEveryRecord
  intro i s t hi h hk
  obtain ⟨x, op, view, -, rfl⟩ := exec_next_of_receives hi h
  cases x with
  | error k => rfl
  | ok u => exact absurd rfl hk

theorem exec_decode_congr {rx rx' : List Byte} (h : parse rx = parse rx') (s : State) :
    exec (.decode rx) s = exec (.decode rx') s := by
  rw [exec_decode, exec_decode, execDecode_eq, execDecode_eq, h]

/-- The parser reads no further than the extent that the header announces, 42_frame_parse.md R180. -/
theorem parse_append {f : List Byte} (h : f.length = 6 + lengthByte f) (tail : List Byte) :
    parse (f ++ tail) = parse f := by
  have hbyte {o : Nat} (ho : o < 6) : byteAt (f ++ tail) o = byteAt f o := byteAt_append_left f tail o (by omega)
  have hlen : lengthByte (f ++ tail) = lengthByte f := congrArg BitVec.toNat (hbyte (by decide))
  have hne : f ≠ [] := List.ne_nil_of_length_pos (by omega)
  have hextent : (f ++ tail).take (6 + lengthByte (f ++ tail)) = f.take (6 + lengthByte f) := by
    rw [hlen, ← h, List.take_left, List.take_length]
  have hle : 6 + lengthByte (f ++ tail) ≤ (f ++ tail).length := by simp [hlen, h]
  by_cases hm : byteAt f 0 = 0xFA#8
  · have hm' : byteAt (f ++ tail) 0 = 0xFA#8 := (hbyte (by decide)).trans hm
    by_cases hcrc : crc16 (f.take (6 + lengthByte f)) = 0#16
    · have hpay : payloadOf (f ++ tail) = payloadOf f := by
        rw [payloadOf, payloadOf, hlen, List.drop_append_of_le_length (by omega),
          List.take_append_of_le_length (by simp [h]; omega)]
      rw [parse_of_intact ⟨hm, h.ge, hcrc⟩, parse_of_intact ⟨hm', hle, hextent ▸ hcrc⟩, hpay, hbyte (by decide),
        hbyte (by decide)]
    · rw [parse_of_crc16_ne hm h.ge hcrc, parse_of_crc16_ne hm' hle (hextent ▸ hcrc)]
  · rw [parse_of_marker_ne hne hm, parse_of_marker_ne (by simp [hne]) (by rwa [hbyte (by decide)])]

/-- Settles O28: the parser does not see the bytes behind the extent. -/
theorem bytesBehindTheFramePlayNoPart : Obligations.BytesBehindTheFramePlayNoPart := by
  unfold Obligations.BytesBehindTheFramePlayNoPart
  intro f tail s _ h
  exact exec_decode_congr (parse_append h tail) s

/-- The view of a whole frame whose checksum is right holds neither its reserved byte nor its checksum. -/
theorem parse_frameBytes (op rsv n c0 c1 : Byte) {pay : List Byte} (hlen : pay.length = n.toNat)
    (hcrc : crc16 ([0xFA#8, op, rsv, n] ++ pay ++ [c0, c1]) = 0#16) :
    parse ([0xFA#8, op, rsv, n] ++ pay ++ [c0, c1]) = .ok { op := op, len := n, payload := pay } := by
  have hbytes : replyFrameBytes op ⟨rsv, pay, le16 c0 c1, []⟩ = [0xFA#8, op, rsv, n] ++ pay ++ [c0, c1] := by
    simp [replyFrameBytes, hlen]
  have hparse := parse_replyFrameBytes (op := op) (r := ⟨rsv, pay, le16 c0 c1, []⟩) (fitsFrame_of_length hlen)
    (by rwa [Vouched, hbytes]) []
  rw [List.append_nil, hbytes] at hparse
  simpa [viewOf, hlen] using hparse

/-- Settles O29: both frames are parsed to the same view. -/
theorem reservedByteIsNotLookedAt : Obligations.ReservedByteIsNotLookedAt := by
  unfold Obligations.ReservedByteIsNotLookedAt
  intro op n a b c0 c1 d0 d1 pay s hlen ha hb
  exact exec_decode_congr ((parse_frameBytes op a n c0 c1 hlen ha).trans (parse_frameBytes op b n d0 d1 hlen hb).symm) s

/-! ### The kind a DECODE ends in -/

/-- The buffer is empty, has a cut header, or ends before the frame its header announces, 92_eei_decisions.md D4. -/
def EndsEarly (rx : List Byte) : Prop :=
  rx = [] ∨ (byteAt rx 0 = 0xFA#8 ∧ (rx.length < 4 ∨ rx.length < 6 + lengthByte rx))

theorem parse_of_endsEarly {rx : List Byte} (h : EndsEarly rx) : parse rx = .error .shortBuffer := by
  rcases parse_cases rx with ⟨-, hp⟩ | ⟨hne, hm, -⟩ | ⟨-, -, -, hp⟩ | ⟨-, hlen, -⟩ | ⟨-, hlen, -⟩
  · exact hp
  · rcases h with he | ⟨hm', -⟩
    · exact absurd he hne
    · exact absurd hm' hm
  · exact hp
  all_goals
    rcases h with rfl | ⟨-, hshort⟩
    · simp at hlen
    · unfold lengthByte at hshort
      omega

/-- Settles O23: the parser stops at one of its length tests, and an error rejects. -/
theorem bufferThatEndsEarlyIsShort : Obligations.BufferThatEndsEarlyIsShort := by
  unfold Obligations.BufferThatEndsEarlyIsShort
  intro rx s h
  exact (exec_decode_of_parse_error (parse_of_endsEarly h) s).trans
    (congrArg _ (endDecode_error (by decide) s 0#8 none))

/-- The condition of each kind on the buffer, 60_exceptions.md sections 1 and 3. -/
def KindCondition (rx : List Byte) : ResultKind → Prop
  | .none => False
  | .shortBuffer => EndsEarly rx
  | .ignored => rx ≠ [] ∧ byteAt rx 0 ≠ 0xFA#8
  | .crcError => byteAt rx 0 = 0xFA#8 ∧ 6 + lengthByte rx ≤ rx.length ∧ crc16 (rx.take (6 + lengthByte rx)) ≠ 0#16
  | .unrecognized => Intact rx ∧ byteAt rx 1 ∉ [0x10#8, 0x30#8, 0x35#8, 0x40#8]
  | .protocolViolation => Intact rx ∧
    ((byteAt rx 1 = 0x10#8 ∧ lengthByte rx ≠ 38) ∨ (byteAt rx 1 = 0x30#8 ∧ lengthByte rx ≠ 16) ∨
     (byteAt rx 1 = 0x40#8 ∧ lengthByte rx ≠ 6) ∨
     (byteAt rx 1 = 0x35#8 ∧ lengthByte rx ≠ 10 ∧ ¬ (lengthByte rx = 1 ∧ byteAt rx 4 = 1#8)))
  | .decodeError => Intact rx ∧ byteAt rx 1 = 0x10#8 ∧ lengthByte rx = 38 ∧
    utf8Wellformed (devtypeText (payloadOf rx)) = false
  | .updated => Intact rx ∧
    ((byteAt rx 1 = 0x10#8 ∧ lengthByte rx = 38 ∧ utf8Wellformed (devtypeText (payloadOf rx)) = true) ∨
     (byteAt rx 1 = 0x30#8 ∧ lengthByte rx = 16) ∨ (byteAt rx 1 = 0x40#8 ∧ lengthByte rx = 6) ∨
     (byteAt rx 1 = 0x35#8 ∧ (lengthByte rx = 10 ∨ (lengthByte rx = 1 ∧ byteAt rx 4 = 1#8))))

/-- The view of a buffer, 42_frame_parse.md R176. -/
def bufferView (rx : List Byte) : View := { op := byteAt rx 1, len := byteAt rx 3, payload := payloadOf rx }

/-- The kind a DECODE of the buffer ends in: the parser's error, or the kind of the extractor's answer. -/
def decodeKind (rx : List Byte) : ResultKind :=
  match parse rx with
  | .error k => k
  | .ok v => endKind (dispatch v)

theorem decodeKind_of_parse_error {rx : List Byte} {k : ResultKind} (h : parse rx = .error k) : decodeKind rx = k := by
  rw [decodeKind, h]

theorem decodeKind_of_intact {rx : List Byte} {x : Except ResultKind Update} (h : Intact rx)
    (hx : dispatch (bufferView rx) = x) : decodeKind rx = endKind x := by
  rw [decodeKind, parse_of_intact h, ← hx]
  rfl

theorem payloadOf_length {rx : List Byte} (h : Intact rx) : (payloadOf rx).length = lengthByte rx := by
  obtain ⟨-, hlen, -⟩ := h
  simp [payloadOf]
  omega

/-- The acknowledgement byte is frame byte 4. -/
theorem byteAt_payloadOf_zero {rx : List Byte} (h : lengthByte rx = 1) : byteAt (payloadOf rx) 0 = byteAt rx 4 := by
  simp [byteAt, payloadOf, h]

theorem dispatch_deviceinfo {v : View} (h : v.op = 0x10#8) : dispatch v = xDeviceinfo v.payload := if_pos h

theorem dispatch_basicinfo {v : View} (h : v.op = 0x30#8) : dispatch v = xBasicinfo v.payload := by
  rw [dispatch, h]; rfl

theorem dispatch_basicset {v : View} (h : v.op = 0x35#8) : dispatch v = xBasicset v.payload := by
  rw [dispatch, h]; rfl

theorem dispatch_systeminfo {v : View} (h : v.op = 0x40#8) : dispatch v = xSysteminfo v.payload := by
  rw [dispatch, h]; rfl

/-- The kinds of a basic-set reply, 43_payload_decode.md R196 to R198. -/
theorem endKind_xBasicset {p : List Byte} {k : ResultKind}
    (h : k = if p.length = 10 ∨ (p.length = 1 ∧ byteAt p 0 = 1#8) then .updated else .protocolViolation) :
    endKind (xBasicset p) = k := by
  rcases xBasicset_cases p with ⟨h1, hb, hx⟩ | ⟨h1, hb, hx⟩ | ⟨h10, b, hx⟩ | ⟨h1, h10, hx⟩
  · simp [h, hx, h1, hb, endKind]
  · simp [h, hx, h1, hb, endKind]
  · simp [h, hx, h10, endKind]
  · simp [h, hx, h1, h10, endKind]

theorem decodeKind_of_protocolViolation {rx : List Byte} (h : KindCondition rx .protocolViolation) :
    decodeKind rx = .protocolViolation := by
  obtain ⟨hrx, hop⟩ := h
  have hlen := payloadOf_length hrx
  rcases hop with ⟨hop, hne⟩ | ⟨hop, hne⟩ | ⟨hop, hne⟩ | ⟨hop, hne10, hack⟩
  · exact decodeKind_of_intact hrx ((dispatch_deviceinfo hop).trans (xDeviceinfo_violation (hlen ▸ hne)))
  · exact decodeKind_of_intact hrx ((dispatch_basicinfo hop).trans (xBasicinfo_violation (hlen ▸ hne)))
  · exact decodeKind_of_intact hrx ((dispatch_systeminfo hop).trans (xSysteminfo_violation (hlen ▸ hne)))
  · refine (decodeKind_of_intact hrx (dispatch_basicset hop)).trans (endKind_xBasicset (if_neg ?_).symm)
    rintro (h10 | ⟨h1, hb⟩)
    · exact hne10 (hlen ▸ h10)
    · have h1' : lengthByte rx = 1 := hlen ▸ h1
      exact hack ⟨h1', byteAt_payloadOf_zero h1' ▸ hb⟩

theorem decodeKind_of_updated {rx : List Byte} (h : KindCondition rx .updated) : decodeKind rx = .updated := by
  obtain ⟨hrx, hop⟩ := h
  have hlen := payloadOf_length hrx
  rcases hop with ⟨hop, h38, ht⟩ | ⟨hop, h16⟩ | ⟨hop, h6⟩ | ⟨hop, hset⟩
  · exact decodeKind_of_intact hrx ((dispatch_deviceinfo hop).trans (xDeviceinfo_ok (hlen.trans h38) ht))
  · exact decodeKind_of_intact hrx ((dispatch_basicinfo hop).trans (xBasicinfo_ok (hlen.trans h16)))
  · exact decodeKind_of_intact hrx ((dispatch_systeminfo hop).trans (xSysteminfo_ok _ (hlen.trans h6)))
  · refine (decodeKind_of_intact hrx (dispatch_basicset hop)).trans (endKind_xBasicset (if_pos ?_).symm)
    rcases hset with h10 | ⟨h1, hb⟩
    · exact .inl (hlen.trans h10)
    · exact .inr ⟨hlen.trans h1, (byteAt_payloadOf_zero h1).trans hb⟩

/-- A kind whose condition holds is the one the DECODE ends in. -/
theorem decodeKind_of_condition {rx : List Byte} {k : ResultKind} (h : KindCondition rx k) : decodeKind rx = k := by
  cases k with
  | none => exact h.elim
  | shortBuffer => exact decodeKind_of_parse_error (parse_of_endsEarly h)
  | ignored =>
    obtain ⟨hne, hm⟩ := h
    exact decodeKind_of_parse_error (parse_of_marker_ne hne hm)
  | crcError =>
    obtain ⟨hm, hlen, hcrc⟩ := h
    exact decodeKind_of_parse_error (parse_of_crc16_ne hm hlen hcrc)
  | unrecognized =>
    obtain ⟨hrx, hop⟩ := h
    exact decodeKind_of_intact hrx (dispatch_unrecognized hop)
  | protocolViolation => exact decodeKind_of_protocolViolation h
  | decodeError =>
    obtain ⟨hrx, hop, h38, ht⟩ := h
    exact decodeKind_of_intact hrx
      ((dispatch_deviceinfo hop).trans (xDeviceinfo_decodeError ((payloadOf_length hrx).trans h38) ht))
  | updated => exact decodeKind_of_updated h

/-- An intact buffer meets a condition: of the kinds behind the checksum test, by its operation code and length. -/
theorem exists_condition_of_intact {rx : List Byte} (h : Intact rx) : ∃ k, KindCondition rx k := by
  by_cases hdev : byteAt rx 1 = 0x10#8
  · by_cases h38 : lengthByte rx = 38
    · cases ht : utf8Wellformed (devtypeText (payloadOf rx)) with
      | false => exact ⟨.decodeError, h, hdev, h38, ht⟩
      | true => exact ⟨.updated, h, .inl ⟨hdev, h38, ht⟩⟩
    · exact ⟨.protocolViolation, h, .inl ⟨hdev, h38⟩⟩
  by_cases hinfo : byteAt rx 1 = 0x30#8
  · by_cases h16 : lengthByte rx = 16
    · exact ⟨.updated, h, .inr (.inl ⟨hinfo, h16⟩)⟩
    · exact ⟨.protocolViolation, h, .inr (.inl ⟨hinfo, h16⟩)⟩
  by_cases hsys : byteAt rx 1 = 0x40#8
  · by_cases h6 : lengthByte rx = 6
    · exact ⟨.updated, h, .inr (.inr (.inl ⟨hsys, h6⟩))⟩
    · exact ⟨.protocolViolation, h, .inr (.inr (.inl ⟨hsys, h6⟩))⟩
  by_cases hset : byteAt rx 1 = 0x35#8
  · by_cases hfits : lengthByte rx = 10 ∨ (lengthByte rx = 1 ∧ byteAt rx 4 = 1#8)
    · exact ⟨.updated, h, .inr (.inr (.inr ⟨hset, hfits⟩))⟩
    · exact ⟨.protocolViolation, h, .inr (.inr (.inr ⟨hset, not_or.mp hfits⟩))⟩
  exact ⟨.unrecognized, h, by simp [hdev, hinfo, hsys, hset]⟩

/-- Every buffer meets the condition of a kind. -/
theorem exists_condition (rx : List Byte) : ∃ k, KindCondition rx k := by
  by_cases hearly : EndsEarly rx
  · exact ⟨.shortBuffer, hearly⟩
  obtain ⟨hne, hwhole⟩ := not_or.mp hearly
  by_cases hm : byteAt rx 0 = 0xFA#8
  · have hlen : 6 + lengthByte rx ≤ rx.length := by
      have := not_and.mp hwhole hm
      omega
    by_cases hcrc : crc16 (rx.take (6 + lengthByte rx)) = 0#16
    · exact exists_condition_of_intact ⟨hm, hlen, hcrc⟩
    · exact ⟨.crcError, hm, hlen, hcrc⟩
  · exact ⟨.ignored, hne, hm⟩

/-- A DECODE ends in exactly the kind whose condition holds. -/
theorem decodeKind_eq_iff (rx : List Byte) (k : ResultKind) : decodeKind rx = k ↔ KindCondition rx k := by
  refine ⟨?_, decodeKind_of_condition⟩
  rintro rfl
  obtain ⟨k, hk⟩ := exists_condition rx
  exact (decodeKind_of_condition hk).symm ▸ hk

/-- The parser's errors come before the checksum has vouched for byte 1, 10_state.md R31. -/
theorem not_carriesOp_of_parse_error {rx : List Byte} {k : ResultKind} (h : parse rx = .error k) :
    k.carriesOp = false := by
  rcases parse_cases rx with ⟨-, hp⟩ | ⟨-, -, hp⟩ | ⟨-, -, -, hp⟩ | ⟨-, -, -, hp⟩ | ⟨-, -, -, hp⟩
  case inr.inr.inr.inr => cases hp.symm.trans h
  all_goals cases hp.symm.trans h; rfl

theorem parse_ok_op {rx : List Byte} {v : View} (h : parse rx = .ok v) : v.op = byteAt rx 1 := by
  rcases parse_cases rx with ⟨-, hp⟩ | ⟨-, -, hp⟩ | ⟨-, -, -, hp⟩ | ⟨-, -, -, hp⟩ | ⟨-, -, -, hp⟩
  case inr.inr.inr.inr => cases hp.symm.trans h; rfl
  all_goals cases hp.symm.trans h

/-- RESULT after a DECODE is its kind with frame byte 1, and the host gets it. -/
theorem exec_decode_reports (rx : List Byte) (s : State) : ∃ t v, exec (.decode rx) s = .next t ∧
    t.out = .decoded t.result v ∧ t.result = resultOf (decodeKind rx) (byteAt rx 1) := by
  cases hp : parse rx with
  | error k =>
    have hk : resultOf k 0#8 = resultOf k (byteAt rx 1) := by simp [resultOf, not_carriesOp_of_parse_error hp]
    exact ⟨_, none, exec_decode_of_parse_error hp s, rfl, by rw [decodeKind_of_parse_error hp]; exact hk⟩
  | ok v =>
    refine ⟨_, some v, exec_decode_of_parse_ok hp s, rfl, ?_⟩
    rw [decodeKind, hp, ← parse_ok_op hp]
    rfl

/-- The kinds that carry no operation code, 60_exceptions.md R221 to R227. -/
theorem resultOf_op {k : ResultKind} (hk : k ≠ .none) (op : Byte) :
    (resultOf k op).op = if k = .shortBuffer ∨ k = .ignored ∨ k = .crcError then 0#8 else op := by
  cases k with
  | none => exact absurd rfl hk
  | _ => rfl

/-- Settles O26: every buffer meets a condition, a kind whose condition holds is the one reported, and so the reported
kind's condition is the one that holds. -/
theorem decodeReportsTheFirstKindThatApplies : Obligations.DecodeReportsTheFirstKindThatApplies := by
  unfold Obligations.DecodeReportsTheFirstKindThatApplies
  intro rx s
  obtain ⟨t, v, hrun, hout, hres⟩ := exec_decode_reports rx s
  have hkind (k : ResultKind) : t.result.kind = k ↔ KindCondition rx k := by
    rw [hres]
    exact decodeKind_eq_iff rx k
  refine ⟨t, v, hrun, hout, hkind .shortBuffer, hkind .ignored, hkind .crcError, hkind .unrecognized,
    hkind .protocolViolation, hkind .decodeError, hkind .updated, ?_⟩
  have hsome : decodeKind rx ≠ .none := fun hnone => (decodeKind_eq_iff rx .none).mp hnone
  rw [hres]
  exact resultOf_op hsome (byteAt rx 1)

end Sys2Proof.Proofs

/-! SUPPORT. The statement on well-formed text (43_payload_decode.md R194): a row of the table can be put before
well-formed text, and well-formed text begins with a row. -/

namespace Sys2Proof.Proofs

open Sys2Proof Sys2Proof.Machine Sys2Proof.Claims

/-! ### The ranges of the table -/

theorem inRange_iff (lo hi b : Byte) : inRange lo hi b = true ↔ lo.toNat ≤ b.toNat ∧ b.toNat ≤ hi.toNat := by
  simp [inRange, BitVec.le_def]

/-- A byte of one range is in no range apart from it. -/
theorem inRange_eq_false_of_disjoint {lo hi lo' hi' b : Byte} (h : inRange lo hi b = true)
    (hd : hi < lo' ∨ hi' < lo) : inRange lo' hi' b = false := by
  rw [inRange_iff] at h
  rw [← Bool.not_eq_true, inRange_iff]
  simp only [BitVec.lt_def] at hd
  omega

theorem inRange_self {b : Byte} : inRange b b b = true := (inRange_iff b b b).mpr ⟨le_rfl, le_rfl⟩

/-- A test for one byte is a range of that byte alone. -/
theorem eq_iff_inRange (b k : Byte) : b = k ↔ inRange k k b = true := by
  rw [inRange_iff, ← BitVec.toNat_inj]
  omega

/-- The table of 43_payload_decode.md R194 with its bounds as bytes. -/
def byteRows : List (List (Byte × Byte)) :=
  [ [(0x00#8, 0x7F#8)],
    [(0xC2#8, 0xDF#8), (0x80#8, 0xBF#8)],
    [(0xE0#8, 0xE0#8), (0xA0#8, 0xBF#8), (0x80#8, 0xBF#8)],
    [(0xE1#8, 0xEC#8), (0x80#8, 0xBF#8), (0x80#8, 0xBF#8)],
    [(0xED#8, 0xED#8), (0x80#8, 0x9F#8), (0x80#8, 0xBF#8)],
    [(0xEE#8, 0xEF#8), (0x80#8, 0xBF#8), (0x80#8, 0xBF#8)],
    [(0xF0#8, 0xF0#8), (0x90#8, 0xBF#8), (0x80#8, 0xBF#8), (0x80#8, 0xBF#8)],
    [(0xF1#8, 0xF3#8), (0x80#8, 0xBF#8), (0x80#8, 0xBF#8), (0x80#8, 0xBF#8)],
    [(0xF4#8, 0xF4#8), (0x80#8, 0x8F#8), (0x80#8, 0xBF#8), (0x80#8, 0xBF#8)] ]

/-- The bytes are in the ranges of a row, one each. -/
def InRow (row : List (Byte × Byte)) (c : List Byte) : Prop :=
  List.Forall₂ (fun r b => inRange r.1 r.2 b = true) row c

theorem InRow.nil : InRow [] [] := List.Forall₂.nil

theorem InRow.cons {lo hi b : Byte} {row : List (Byte × Byte)} {c : List Byte} (hb : inRange lo hi b = true)
    (hc : InRow row c) : InRow ((lo, hi) :: row) (b :: c) :=
  List.Forall₂.cons hb hc

/-- The claims' table and the byte form of it say the same of a sequence. -/
theorem exists_fitsRow_iff (c : List Byte) : (∃ row ∈ utf8Rows, FitsRow row c) ↔ ∃ row ∈ byteRows, InRow row c := by
  have hrows : utf8Rows = byteRows.map (List.map (Prod.map BitVec.toNat BitVec.toNat)) := rfl
  simp only [hrows, List.mem_map, exists_exists_and_eq_and, FitsRow, List.forall₂_map_left_iff, InRow, inRange_iff,
    Prod.map_fst, Prod.map_snd]

/-! ### Text before and after its first sequence -/

/-- The lead byte of a row leads to the row's own branch, and the bytes behind it pass its tests. -/
theorem utf8Wellformed_append {row : List (Byte × Byte)} {c : List Byte} (hrow : row ∈ byteRows) (hc : InRow row c)
    (t : List Byte) : utf8Wellformed (c ++ t) = utf8Wellformed t := by
  simp only [byteRows, List.mem_cons, List.not_mem_nil, or_false] at hrow
  rcases hrow with rfl | rfl | rfl | rfl | rfl | rfl | rfl | rfl | rfl
  case inl =>
    obtain _ | ⟨ha, _ | _⟩ := hc
    rw [List.cons_append, utf8Wellformed.eq_def]
    simp [ha]
  case inr.inl =>
    obtain _ | ⟨ha, _ | ⟨hb, _ | _⟩⟩ := hc
    rw [List.cons_append, utf8Wellformed.eq_def]
    simp [inRange_eq_false_of_disjoint ha, ha, hb]
  all_goals
    obtain _ | ⟨ha, _ | ⟨hb, _ | ⟨hd, _ | ⟨he, _ | _⟩⟩⟩⟩ := hc
    rw [List.cons_append, utf8Wellformed.eq_def]
  -- the four rows of three bytes, then the three rows of four
  iterate 4 simp [eq_iff_inRange, inRange_eq_false_of_disjoint ha, ha, hb, hd]
  iterate 3 simp [eq_iff_inRange, inRange_eq_false_of_disjoint ha, ha, hb, hd, he]

/-- The text is a concatenation of sequences of the table. -/
def RowsOfTable (t : List Byte) : Prop :=
  ∃ chunks : List (List Byte), t = chunks.flatten ∧ ∀ c ∈ chunks, ∃ row ∈ byteRows, InRow row c

theorem rowsOfTable_append {row : List (Byte × Byte)} {c t : List Byte} (hrow : row ∈ byteRows) (hc : InRow row c)
    (ht : RowsOfTable t) : RowsOfTable (c ++ t) := by
  obtain ⟨chunks, rfl, hchunks⟩ := ht
  exact ⟨c :: chunks, rfl, List.forall_mem_cons.mpr ⟨⟨row, hrow, hc⟩, hchunks⟩⟩

/-- Each branch of the test that goes on has seen the bytes of one row. -/
theorem rowsOfTable_of_utf8Wellformed (t : List Byte) (h : utf8Wellformed t = true) : RowsOfTable t := by
  induction t using utf8Wellformed.induct
  case case1 => exact ⟨[], rfl, nofun⟩
  all_goals
    rw [utf8Wellformed.eq_def] at h
    simp only [*, if_true, if_false, Bool.false_eq_true, Bool.and_eq_true] at h
  case case2 a _ ha ih => exact rowsOfTable_append (c := [a]) (by decide) (.cons ha .nil) (ih h)
  case case4 a _ b _ ha ih =>
    obtain ⟨hb, h⟩ := h
    exact rowsOfTable_append (c := [a, b]) (by decide) (.cons ha (.cons hb .nil)) (ih h)
  case case7 a _ b _ d _ _ ha ih | case9 a _ b _ d _ _ _ _ ha ih =>
    obtain ⟨⟨hb, hd⟩, h⟩ := h
    exact rowsOfTable_append (c := [a, b, d]) (by decide) (.cons ha (.cons hb (.cons hd .nil))) (ih h)
  case case6 b d _ _ _ ih | case8 b d _ _ _ _ _ ih =>
    obtain ⟨⟨hb, hd⟩, h⟩ := h
    exact rowsOfTable_append (c := [_, b, d]) (by decide) (.cons inRange_self (.cons hb (.cons hd .nil))) (ih h)
  case case12 a _ b _ d _ _ _ _ e _ _ ha ih =>
    obtain ⟨⟨⟨hb, hd⟩, he⟩, h⟩ := h
    exact rowsOfTable_append (c := [a, b, d, e]) (by decide) (.cons ha (.cons hb (.cons hd (.cons he .nil)))) (ih h)
  case case11 b d e _ _ _ _ _ _ _ ih | case13 b d e _ _ _ _ _ _ _ _ _ ih =>
    obtain ⟨⟨⟨hb, hd⟩, he⟩, h⟩ := h
    exact rowsOfTable_append (c := [_, b, d, e]) (by decide)
      (.cons inRange_self (.cons hb (.cons hd (.cons he .nil)))) (ih h)

/-- Settles O44: from the test to the sequences by its own branches, back by one sequence after another. -/
theorem wellFormedTextIsRowsOfTheTable : Obligations.WellFormedTextIsRowsOfTheTable := by
  unfold Obligations.WellFormedTextIsRowsOfTheTable
  intro t
  simp only [exists_fitsRow_iff]
  refine ⟨rowsOfTable_of_utf8Wellformed t, ?_⟩
  rintro ⟨chunks, rfl, hchunks⟩
  induction chunks with
  | nil => rfl
  | cons c chunks ih =>
    obtain ⟨⟨row, hrow, hc⟩, hrest⟩ := List.forall_mem_cons.mp hchunks
    rw [List.flatten_cons, utf8Wellformed_append hrow hc]
    exact ih hrest

end Sys2Proof.Proofs
